-- ==== Sys2Proof/Word.lean ====
section
/-! DEFINITION. The word types of the block: the byte of a frame, the 32-bit register word, the 7-bit register address
and the 2-bit node address (spec/00_scope.md R10, R11). -/

namespace Sys2Proof

/-- One frame byte, bit 0 least significant (R11). -/
abbrev Byte := BitVec 8

/-- A remote register word, 32 bits (R10). -/
abbrev Word := BitVec 32

/-- A remote register address, 7 bits (R10, spec/20_memory.md R52). -/
abbrev RegAddr := BitVec 7

/-- The bus address of a remote chip, 2 bits (R10). -/
abbrev NodeAddr := BitVec 2

end Sys2Proof
end

