-- ==== Sys2Proof/Syntax.lean ====
section
/-! DEFINITION. The block's inputs as syntax: one constructor of `Instr` for every row of spec/opcode_table.json (35 host
operations, the input event EDGE, the three wire frames), the operands they take, the form in which they reach the block
(`Input`), the events it emits and the reasons it refuses an operation with. -/

namespace Sys2Proof

/-- The two edge interrupt sources (spec/42_edge_detector.md R200). -/
inductive EdgeSrc where
  | diag
  | index
deriving DecidableEq, Repr

/-- The nine handlers in the fixed index order 0 to 8 of spec/10_state.md R28. -/
inductive Handler where
  | diag
  | index
  | nt
  | otpw
  | ot
  | t120
  | t143
  | t150
  | t157
deriving DecidableEq, Repr

/-- The AlertEvent enumeration in the order of its codes 0 to 13 (spec/30_encoding.md R100). -/
inductive Event where
  | stalled
  | diagTriggered
  | indexTriggered
  | temperatureNormal
  | overtemperaturePrewarning
  | overtemperature
  | above120
  | below120
  | above143
  | below143
  | above150
  | below150
  | above157
  | below157
deriving DecidableEq, Repr

/-- The names of FIELD_TABLE (spec/30_encoding.md R86). -/
inductive FieldName where
  | diag
  | version
  | ihold
  | irun
  | iholddelay
  | tpowerdown
  | tcoolthrs
  | vsense
  | mres
  | otpw
  | ot
  | t120
  | t143
  | t150
  | t157
deriving DecidableEq, Repr

/-- A FieldSpec as it is presented: register address, bit offset, bit width, signedness (spec/30_encoding.md R85). The
numbers are unbounded integers, because an ill-formed FieldSpec can be presented and is then refused (R90). -/
structure FieldSpec where
  addr : Int
  offset : Int
  width : Int
  signed : Bool
deriving DecidableEq, Repr

/-- A FieldSpec operand: a name from FIELD_TABLE or a literal tuple (spec/30_encoding.md R96). -/
inductive FieldRef where
  | named (f : FieldName)
  | literal (f : FieldSpec)
deriving DecidableEq, Repr

/-- The reasons of a refusal (spec/60_exceptions.md R261), in the priority order of R262. -/
inductive RefuseReason where
  | badOpcode
  | badOperand
  | badFieldSpec
  | nested
  | nodeAddrFixed
  | domain
deriving DecidableEq, Repr

/-- The instructions: one constructor per row of spec/opcode_table.json, in the table's order. Operands of the types u7,
u32, u8, u5, u2 and handler id are unbounded integers: a value outside the type can be presented and is then refused with
BAD_OPERAND (spec/30_encoding.md R96, spec/60_exceptions.md R261). The frames hold their fields as bits. -/
inductive Instr where
  | wreg (addr value : Int)
  | rreg (addr : Int)
  | rfld (f : FieldRef)
  | wfld (f : FieldRef) (v : Int)
  | setMstep (n : Int)
  | getMstep
  | setIholddelay (raw : Int)
  | setIholddelayMs (ms : Rat)
  | getIholddelay
  | getIholddelayMs
  | setTpowerdown (raw : Int)
  | setTpowerdownMs (ms : Rat)
  | getTpowerdown
  | getTpowerdownMs
  | setSgthrs (v : Int)
  | getSgthrs
  | getSgresult
  | setTcoolthrs (v : Int)
  | getTcoolthrs
  | getVersion
  | csFwd (amps : Rat)
  | csInv (scale : Int) (vsense : Bool)
  | setRms (amps : Rat)
  | getRms
  | setHoldfrac (f : Rat)
  | getHoldfrac
  | setRsense (r : Rat) (internal : Bool)
  | getRsense
  | setFosc (f : Rat)
  | getFosc
  | setNodeaddr (a : Int)
  | getNodeaddr
  | check (h : Int) (v : Bool)
  | poll
  | setup
  | edge (src : EdgeSrc)
  | w8 (node : NodeAddr) (reg : RegAddr) (data : Word) (crc : Byte)
  | r4 (node : NodeAddr) (reg : RegAddr) (crc : Byte)
  | p8 (reg : RegAddr) (data : Word) (crc : Byte)
deriving DecidableEq, Repr

/-- One operand as it stands on the command port (spec/30_encoding.md R96): an exact number, a Bool, a FieldSpec by name or
as a literal tuple, or the source of an EDGE. -/
inductive Operand where
  | num (q : Rat)
  | flag (b : Bool)
  | field (f : FieldRef)
  | source (e : EdgeSrc)
deriving DecidableEq, Repr

/-- One input of the block: a code of the host-op map with its operands (spec/30_encoding.md R95), or the bytes of a wire
frame, byte 0 first (R77). The spec gives operands no bit layout, so they stand here as values [DESIGN CHOICE, log 6]. -/
inductive Input where
  | command (code : Byte) (args : List Operand)
  | frame (bytes : List Byte)
deriving DecidableEq, Repr

end Sys2Proof
end

