-- ==== Sys2Proof/Config.lean ====
section
/-! DEFINITION. What is fixed for one block: the types of its parameters (spec/00_scope.md R9) and the free values, each an
opaque constant with no body, applied to the counter `State.draws`, so that nothing can be proved of the value drawn. -/

namespace Sys2Proof

/-- The access class of a remote register (spec/30_encoding.md R87). -/
inductive AccessClass where
  | r
  | w
  | rw
deriving DecidableEq, Repr

/-- READBACK: how FC reads a register of class W (spec/00_scope.md R9). -/
inductive Readback where
  | wire
  | shadow
deriving DecidableEq, Repr

/-- POLL_SNAPSHOT: DRV_STATUS reads per poll (spec/00_scope.md R9). -/
inductive PollSnapshot where
  | perField
  | single
deriving DecidableEq, Repr

/-- DIAG_POLL_SOURCE: the diag input when IRQ_DIAG is false (spec/00_scope.md R9). -/
inductive DiagPollSource where
  | register
  | pin
deriving DecidableEq, Repr

/-- INDEX_POLL_SOURCE: the index input when IRQ_INDEX is false (spec/00_scope.md R9). -/
inductive IndexPollSource where
  | constFalse
  | pin
deriving DecidableEq, Repr

/-- MS_ROUNDING: the rounding of the conversion from milliseconds (spec/00_scope.md R9). -/
inductive MsRounding where
  | trunc
  | nearest
deriving DecidableEq, Repr

/-- FIELD_TABLE: a FieldSpec for each name (spec/30_encoding.md R86). -/
structure FieldTable where
  diag : FieldSpec
  version : FieldSpec
  ihold : FieldSpec
  irun : FieldSpec
  iholddelay : FieldSpec
  tpowerdown : FieldSpec
  tcoolthrs : FieldSpec
  vsense : FieldSpec
  mres : FieldSpec
  otpw : FieldSpec
  ot : FieldSpec
  t120 : FieldSpec
  t143 : FieldSpec
  t150 : FieldSpec
  t157 : FieldSpec
deriving DecidableEq, Repr

/-- The parameters of the block that no operation changes (spec/00_scope.md R9). They stand in the state, so that every
statement about all states holds for every choice of them [DESIGN CHOICE, log 5]. -/
structure Params where
  fieldTable : FieldTable
  accessClass : List (RegAddr × AccessClass)
  readback : Readback
  shadowReset : Vector Word 128
  pollSnapshot : PollSnapshot
  diagPollSource : DiagPollSource
  indexPollSource : IndexPollSource
  msRounding : MsRounding
  vfsHi : Rat
  vfsLo : Rat
  rInt : Rat
  tclkDiv : Int
deriving DecidableEq, Repr

/-- The parameters with which a block is built (spec/00_scope.md R9, the rows marked "construction", and the rest). -/
structure Construction where
  nodeAddr : NodeAddr
  rsense : Rat
  internalRsense : Bool
  holdFraction : Rat
  fosc : Rat
  irqDiag : Bool
  irqIndex : Bool
  params : Params
deriving DecidableEq, Repr

/-- FREE VALUE: the bytes WIRE answers to a transaction for which the input queue holds no answer
(spec/40_transport.md R112, U5; log 10). -/
opaque Config.lineRx : Nat → List Byte

/-- FREE VALUE: the word of a read whose reply is malformed (spec/40_transport.md R125, U1; log 13). -/
opaque Config.malformedWord : Nat → Word

/-- FREE VALUE: the integer GET_MSTEP gives for an MRES code that encodes no resolution (spec/41_field_codec.md R151, U4;
log 14). -/
opaque Config.mstepDraw : Nat → Int

/-- FREE VALUE: the GPIO level of the diag pin (spec/42_edge_detector.md R203, U19; log 15). -/
opaque Config.diagPin : Nat → Bool

/-- FREE VALUE: the GPIO level of the index pin (spec/42_edge_detector.md R204, U19; log 15). -/
opaque Config.indexPin : Nat → Bool

end Sys2Proof
end

