-- ==== Sys2Proof/Machine/RegisterMap.lean ====
section
/-! DEFINITION. The default FIELD_TABLE and ACCESS_CLASS (spec/30_encoding.md R86, R87), the two registers reached whole, and
the default parameters of the block (spec/00_scope.md R9). The positions and classes are marked by the spec itself as general
knowledge of the TMC2209 [PRESUMED, log 24]. -/

namespace Sys2Proof.Machine

/-- IOIN, class R (R87). -/
def regIoin : RegAddr := 0x06#7
/-- IHOLD_IRUN, class W (R87). -/
def regIholdIrun : RegAddr := 0x10#7
/-- TPOWERDOWN, class W (R87). -/
def regTpowerdown : RegAddr := 0x11#7
/-- TCOOLTHRS, class W (R87). -/
def regTcoolthrs : RegAddr := 0x14#7
/-- SGTHRS, class W, reached as a whole register (R86, R87). -/
def regSgthrs : RegAddr := 0x40#7
/-- SG_RESULT, class R, reached as a whole register (R86, R87). -/
def regSgresult : RegAddr := 0x41#7
/-- CHOPCONF, class RW (R87). -/
def regChopconf : RegAddr := 0x6C#7
/-- DRV_STATUS, class R (R87). -/
def regDrvStatus : RegAddr := 0x6F#7

/-- An unsigned field of the default table. -/
def unsignedField (addr : RegAddr) (offset width : Int) : FieldSpec :=
  { addr := (addr.toNat : Int), offset := offset, width := width, signed := false }

/-- The default FIELD_TABLE (R86). -/
def defaultFieldTable : FieldTable :=
  { diag := unsignedField regIoin 4 1
    version := unsignedField regIoin 24 8
    ihold := unsignedField regIholdIrun 0 5
    irun := unsignedField regIholdIrun 8 5
    iholddelay := unsignedField regIholdIrun 16 4
    tpowerdown := unsignedField regTpowerdown 0 8
    tcoolthrs := unsignedField regTcoolthrs 0 20
    vsense := unsignedField regChopconf 17 1
    mres := unsignedField regChopconf 24 4
    otpw := unsignedField regDrvStatus 0 1
    ot := unsignedField regDrvStatus 1 1
    t120 := unsignedField regDrvStatus 8 1
    t143 := unsignedField regDrvStatus 9 1
    t150 := unsignedField regDrvStatus 10 1
    t157 := unsignedField regDrvStatus 11 1 }

/-- The default ACCESS_CLASS: the listed registers; every other address is RW (R87). -/
def defaultAccessClass : List (RegAddr × AccessClass) :=
  [(regIoin, .r), (regIholdIrun, .w), (regTpowerdown, .w), (regTcoolthrs, .w), (regSgthrs, .w), (regSgresult, .r),
   (regChopconf, .rw), (regDrvStatus, .r)]

/-- The parameters with the defaults of spec/00_scope.md R9. SHADOW_RESET is OPEN there: all zero
[DESIGN CHOICE, log 3]. -/
def defaultParams : Params :=
  { fieldTable := defaultFieldTable
    accessClass := defaultAccessClass
    readback := .wire
    shadowReset := Vector.replicate 128 0#32
    pollSnapshot := .perField
    diagPollSource := .register
    indexPollSource := .constFalse
    msRounding := .trunc
    vfsHi := 325 / 1000
    vfsLo := 180 / 1000
    rInt := 2 / 100
    tclkDiv := 262144 }

/-- The FieldSpec of a name in a FIELD_TABLE (R86). -/
def fieldOf (t : FieldTable) : FieldName → FieldSpec
  | .diag => t.diag
  | .version => t.version
  | .ihold => t.ihold
  | .irun => t.irun
  | .iholddelay => t.iholddelay
  | .tpowerdown => t.tpowerdown
  | .tcoolthrs => t.tcoolthrs
  | .vsense => t.vsense
  | .mres => t.mres
  | .otpw => t.otpw
  | .ot => t.ot
  | .t120 => t.t120
  | .t143 => t.t143
  | .t150 => t.t150
  | .t157 => t.t157

/-- The access class of an address: the first listed entry, RW where none is listed (R87). -/
def classOf (m : List (RegAddr × AccessClass)) (a : RegAddr) : AccessClass :=
  match m with
  | [] => .rw
  | (b, c) :: rest => if b = a then c else classOf rest a

end Sys2Proof.Machine
end

