-- ==== Sys2Proof/Machine/State.lean ====
section
/-! DEFINITION. The state of the block: the record of spec/10_state.md R23, the parameters, the operations in progress, the
pending inputs of its environment and the observation logs; the fault and refusal types; construction and reset
(spec/70_reset_and_hazards.md R282). -/

namespace Sys2Proof.Machine

/-- `S.phase` (spec/10_state.md R25). -/
inductive Phase where
  | config
  | running
deriving DecidableEq, Repr

/-- The handler file `S.prev`: one Bool for each handler (spec/10_state.md R28). -/
structure HandlerFile where
  diag : Bool
  index : Bool
  nt : Bool
  otpw : Bool
  ot : Bool
  t120 : Bool
  t143 : Bool
  t150 : Bool
  t157 : Bool
deriving DecidableEq, Repr

/-- Every handler at false (spec/70_reset_and_hazards.md R282). -/
def HandlerFile.clear : HandlerFile := ⟨false, false, false, false, false, false, false, false, false⟩

/-- `S.prev[h]`. -/
def HandlerFile.get (p : HandlerFile) : Handler → Bool
  | .diag => p.diag
  | .index => p.index
  | .nt => p.nt
  | .otpw => p.otpw
  | .ot => p.ot
  | .t120 => p.t120
  | .t143 => p.t143
  | .t150 => p.t150
  | .t157 => p.t157

/-- `S.prev[h] <- v`. -/
def HandlerFile.set (p : HandlerFile) (h : Handler) (v : Bool) : HandlerFile :=
  match h with
  | .diag => { p with diag := v }
  | .index => { p with index := v }
  | .nt => { p with nt := v }
  | .otpw => { p with otpw := v }
  | .ot => { p with ot := v }
  | .t120 => { p with t120 := v }
  | .t143 => { p with t143 := v }
  | .t150 => { p with t150 := v }
  | .t157 => { p with t157 := v }

/-- The bytes WIRE answers to one transaction, in the three forms of spec/30_encoding.md R97: exactly the listed bytes, the
echo alone, or the echo followed by the listed bytes. -/
inductive WireRx where
  | bytes (rx : List Byte)
  | echo
  | reply (bs : List Byte)
deriving DecidableEq, Repr

/-- What the environment does during one transaction: the bytes WIRE answers (spec/40_transport.md R112) and the edges that
fall inside the transaction (spec/42_edge_detector.md R200; log 11). -/
structure WireAnswer where
  rx : WireRx
  edges : List EdgeSrc
deriving DecidableEq, Repr

/-- What reaches the block while an operation is suspended at an event emission (spec/42_edge_detector.md R214; log 16): an
input, the return of the listener of the innermost emission, or a listener that never returns (spec/60_exceptions.md
R267). -/
inductive NestedInput where
  | input (i : Input)
  | ret
  | blocked
deriving DecidableEq, Repr

/-- A warning of an operation's result (spec/10_state.md R30). -/
inductive Warning where
  | capability
  | holddelayClamped
  | tpowerdownClamped
deriving DecidableEq, Repr

/-- The value an operation returns (the result column of spec/30_encoding.md R95). A current is the rational `q` of the real
`q * √2`, the representation spec/43_current_quantizer.md R236 gives (log 18). -/
inductive Value where
  | none
  | word (w : Word)
  | int (v : Int)
  | rat (q : Rat)
  | scale (scale : Int) (vsense : Bool)
  | current (q : Rat)
  | sense (r : Rat) (internal : Bool)
  | node (a : NodeAddr)
  | events (es : List Event)
deriving DecidableEq, Repr

/-- How an operation ended (spec/60_exceptions.md R257): completed, with its value, its `ok` bit where it has one and its
warning where one was raised, or refused with a reason. -/
inductive OpResult where
  | completed (value : Value) (ok : Option Bool) (warning : Option Warning)
  | refused (reason : RefuseReason)
deriving DecidableEq, Repr

/-- One entry of the result log (spec/10_state.md R33): the operation, none where the input decoded to no instruction, and
how it ended. -/
structure LogEntry where
  op : Option Instr
  result : OpResult
deriving DecidableEq, Repr

/-- The operations that emit events (spec/42_edge_detector.md R194, R207). -/
inductive Emitter where
  | check (h : Int) (v : Bool)
  | poll
deriving DecidableEq, Repr

/-- The part of a running CHECK or POLL that outlives one handler step: which operation it is, `okall` so far, the
DRV_STATUS word of the `single` snapshot once it is read (spec/42_edge_detector.md R208), and the events of its handler
steps so far. -/
structure EmitterCtx where
  emitter : Emitter
  ok : Bool
  snapshot : Option Word
  events : List Event
deriving DecidableEq, Repr

/-- An operation suspended at an emission of the step of `handler` with the input `input`: `pending` are the events of that
step still to be emitted, `rest` the handlers whose steps follow (spec/42_edge_detector.md R193, R214). -/
structure Activation where
  ctx : EmitterCtx
  handler : Handler
  input : Bool
  pending : List Event
  rest : List Handler
deriving DecidableEq, Repr

/-- Why a run is marked faulted. -/
inductive Fault where
  /-- A device id that was never registered reached the native callback boundary (spec/60_exceptions.md R263). The Device
  Registry is out of scope, so no operation raises it: it stands here because the spec names it. Safe. -/
  | unknownDeviceId
deriving DecidableEq, Repr

/-- Why the model gives an instruction no meaning. (A refusal the SPEC describes is no such reason: it is a next state with
an entry in the result log.) -/
inductive Refusal where
  /-- Raised by an arm of `exec` for an instruction that has no meaning yet; no arm of this model does. Safe. -/
  | notModelled (mnemonic : String)
deriving DecidableEq, Repr

/-- The state. The first thirteen fields are `S` of spec/10_state.md R23; `params` are the parameters of
spec/00_scope.md R9; `stack` holds the operations suspended at an emission, innermost first; `port`, `nest` and `wire` are
the pending inputs of HOST, the listeners and WIRE; `draws` numbers the free values; the last three are the observation
logs of spec/10_state.md R33. -/
structure State where
  phase : Phase
  node : NodeAddr
  rsense : Rat
  internalRsense : Bool
  holdFraction : Rat
  fosc : Rat
  rmsTarget : Option Rat
  irqDiag : Bool
  irqIndex : Bool
  prev : HandlerFile
  diagFlag : Bool
  indexFlag : Bool
  shadow : Vector Word 128
  params : Params
  stack : List Activation
  port : List Input
  nest : List NestedInput
  wire : List WireAnswer
  draws : Nat
  txLog : List (List Byte)
  events : List Event
  results : List LogEntry
deriving DecidableEq, Repr

/-- The block as it is built from its parameters (spec/70_reset_and_hazards.md R282), with no input pending. -/
def State.construct (c : Construction) : State :=
  { phase := .config
    node := c.nodeAddr
    rsense := c.rsense
    internalRsense := c.internalRsense
    holdFraction := c.holdFraction
    fosc := c.fosc
    rmsTarget := none
    irqDiag := c.irqDiag
    irqIndex := c.irqIndex
    prev := .clear
    diagFlag := false
    indexFlag := false
    shadow := c.params.shadowReset
    params := c.params
    stack := []
    port := []
    nest := []
    wire := []
    draws := 0
    txLog := []
    events := []
    results := [] }

/-- The construction parameters of the reset state [DESIGN CHOICE, log 2]. -/
def defaultConstruction : Construction :=
  { nodeAddr := 0#2
    rsense := 11 / 100
    internalRsense := false
    holdFraction := 1 / 2
    fosc := 12000000
    irqDiag := false
    irqIndex := false
    params := defaultParams }

/-- The machine right after reset: the block as built from `defaultConstruction`. -/
def State.reset : State := State.construct defaultConstruction

end Sys2Proof.Machine
end

