-- ==== Sys2Proof/Machine/Operands.lean ====
section
/-! DEFINITION. Operand forms: the operand types of spec/30_encoding.md R96 with their checks, FieldSpecs and their
well-formedness (R85), handler ids, and the field codec functions over a register word (spec/41_field_codec.md R142, R143,
spec/00_scope.md R13). -/

namespace Sys2Proof.Machine

/-- `v` is an unsigned integer of `n` bits (spec/00_scope.md R12). -/
def fitsUnsigned (n : Nat) (v : Int) : Bool := decide (0 ≤ v ∧ v < 2 ^ n)

/-- The operand type u7, a register address. -/
def isU7 (v : Int) : Bool := fitsUnsigned 7 v

/-- The operand type u32, a register word. -/
def isU32 (v : Int) : Bool := fitsUnsigned 32 v

/-- The operand type u8. -/
def isU8 (v : Int) : Bool := fitsUnsigned 8 v

/-- The operand type u5, a current scale. -/
def isU5 (v : Int) : Bool := fitsUnsigned 5 v

/-- The operand type u2, a node address. -/
def isU2 (v : Int) : Bool := fitsUnsigned 2 v

/-- The register address of an operand of type u7. -/
def toAddr (v : Int) : RegAddr := BitVec.ofInt 7 v

/-- The register word of an integer, modulo 2^32 (spec/41_field_codec.md R146). -/
def toWord (v : Int) : Word := BitVec.ofInt 32 v

/-- The node address of an operand of type u2. -/
def toNode (v : Int) : NodeAddr := BitVec.ofInt 2 v

/-- The handlers in index order 0 to 8 (spec/10_state.md R28). -/
def handlerOrder : List Handler := [.diag, .index, .nt, .otpw, .ot, .t120, .t143, .t150, .t157]

/-- The handler of a handler id, none outside 0..8 (spec/30_encoding.md R96). -/
def handlerOfId (h : Int) : Option Handler :=
  if 0 ≤ h then handlerOrder[h.toNat]? else none

/-- A FieldSpec is well-formed (spec/30_encoding.md R85). -/
def fieldSpecOk (f : FieldSpec) : Bool :=
  decide (0 ≤ f.addr ∧ f.addr ≤ 127 ∧ 0 ≤ f.offset ∧ f.offset ≤ 31 ∧ 1 ≤ f.width ∧ f.offset + f.width ≤ 32)

/-- A FieldSpec covers the entire register (spec/41_field_codec.md R145). -/
def coversRegister (f : FieldSpec) : Bool := decide (f.offset = 0 ∧ f.width = 32)

/-- The FieldSpec of an operand, a name being looked up in FIELD_TABLE (spec/30_encoding.md R96). -/
def resolveField (t : FieldTable) : FieldRef → FieldSpec
  | .named n => fieldOf t n
  | .literal f => f

/-- The register a FieldSpec names. -/
def fieldAddr (f : FieldSpec) : RegAddr := toAddr f.addr

/-- `sext_n(v)`: the low n bits of v as two's complement (spec/00_scope.md R13). -/
def sext (n : Nat) (v : Int) : Int :=
  if 2 * (v % 2 ^ n) < 2 ^ n then v % 2 ^ n else v % 2 ^ n - 2 ^ n

/-- `Extract(f, w)` (spec/41_field_codec.md R142). -/
def extractField (f : FieldSpec) (w : Word) : Int :=
  let u : Int := (((w.toNat >>> f.offset.toNat) % 2 ^ f.width.toNat : Nat) : Int)
  if f.signed = true then sext f.width.toNat u else u

/-- The field mask `(2^width - 1) << offset` as a word (spec/41_field_codec.md R143). -/
def fieldMask (f : FieldSpec) : Word := BitVec.ofNat 32 ((2 ^ f.width.toNat - 1) <<< f.offset.toNat)

/-- `enc << offset` with `enc = v mod 2^width` (spec/41_field_codec.md R143). -/
def fieldBits (f : FieldSpec) (v : Int) : Word :=
  BitVec.ofNat 32 ((v % 2 ^ f.width.toNat).toNat <<< f.offset.toNat)

/-- `Insert(f, w, v)` (spec/41_field_codec.md R143). -/
def insertField (f : FieldSpec) (w : Word) (v : Int) : Word :=
  (w &&& ~~~ fieldMask f) ||| fieldBits f v

/-- `Norm(f, v)`: what a read of f gives after v was written (spec/41_field_codec.md R147). -/
def normField (f : FieldSpec) (v : Int) : Int :=
  if f.signed = true then sext f.width.toNat v else v % 2 ^ f.width.toNat

/-- The integers that lie in `MSTEPS` (spec/41_field_codec.md R149), with their MRES codes (spec/30_encoding.md R88). -/
def mstepCodes : List (Int × Int) :=
  [(256, 0), (128, 1), (64, 2), (32, 3), (16, 4), (8, 5), (4, 6), (2, 7), (1, 8)]

/-- `MstepEncode(n)`, none for an n outside MSTEPS (spec/41_field_codec.md R149). -/
def mstepEncode (n : Int) : Option Int := mstepCodes.lookup n

/-- `MstepDecode(m) = 256 >> m` for m in 0..8, none for a code that encodes no resolution (spec/41_field_codec.md R151). -/
def mstepDecode (m : Int) : Option Int :=
  if 0 ≤ m ∧ m ≤ 8 then some ((256 >>> m.toNat : Nat) : Int) else none

/-- `round_half_away(x)` (spec/00_scope.md R13). -/
def roundHalfAway (x : Rat) : Int :=
  if 0 ≤ x then (x + 1 / 2).floor else -(-x + 1 / 2).floor

/-- `clamp(lo, hi, x)` (spec/00_scope.md R13). -/
def clamp (lo hi x : Int) : Int := min hi (max lo x)

end Sys2Proof.Machine
end

