-- ==== Sys2Proof/Machine/Flags.lean ====
section
/-! DEFINITION. The status bits of an operation's result (spec/10_state.md R30): the clamps that raise a warning, with the
warning each raises, and the conversion of milliseconds whose result they judge. -/

namespace Sys2Proof.Machine

/-- `ClampHD(raw) = min(raw, 15)` (spec/41_field_codec.md R158). -/
def clampHold (raw : Int) : Int := min raw 15

/-- WARN_HOLDDELAY_CLAMPED when the requested factor is above 15 (spec/41_field_codec.md R160). -/
def warnHold (raw : Int) : Option Warning := if 15 < raw then some .holddelayClamped else none

/-- `ClampPD(raw) = min(raw, 255)` (spec/41_field_codec.md R164). -/
def clampPower (raw : Int) : Int := min raw 255

/-- WARN_TPOWERDOWN_CLAMPED when the requested factor is above 255 (spec/41_field_codec.md R166). -/
def warnPower (raw : Int) : Option Warning := if 255 < raw then some .tpowerdownClamped else none

/-- WARN_CAPABILITY when the upper clamp of the current scale changed the value (spec/43_current_quantizer.md R229). -/
def warnScale (clamped : Bool) : Option Warning := if clamped = true then some .capability else none

/-- `MsToRaw(ms)` for the block's oscillator frequency and rounding (spec/41_field_codec.md R155). -/
def msToRaw (s : State) (ms : Rat) : Int :=
  let x := ms / 1000 * s.fosc / (s.params.tclkDiv : Rat)
  match s.params.msRounding with
  | .trunc => x.floor
  | .nearest => roundHalfAway x

/-- `RawToMs(raw) = raw * TCLK_DIV * 1000 / S.fosc`, exact (spec/41_field_codec.md R156). -/
def rawToMs (s : State) (raw : Int) : Rat :=
  (raw : Rat) * (s.params.tclkDiv : Rat) * 1000 / s.fosc

end Sys2Proof.Machine
end

