-- ==== Sys2Proof/Machine/Frame.lean ====
section
/-! DEFINITION. The wire frames of FRM: CRC8 (spec/30_encoding.md R82), the bytes of the formats W8, R4 and P8 (R78, R79,
R81), the frame builders (spec/40_transport.md R113), and the validation and value of a reply (R123, R124). -/

namespace Sys2Proof.Machine

/-- The sync byte of every frame (spec/30_encoding.md R80). -/
def syncByte : Byte := 0x05#8

/-- The master address in byte 1 of a reply (R81). -/
def masterByte : Byte := 0xFF#8

/-- One bit of CRC8: polynomial 0x07, the byte's least significant bit first (R82). -/
def crcBit (crc cur : Byte) : Byte :=
  if (crc.getLsbD 7 ^^ cur.getLsbD 0) = true then (crc <<< 1) ^^^ 0x07#8 else crc <<< 1

/-- The given number of bits of the byte `cur` (R82's inner loop). -/
def crcBits : Nat → Byte → Byte → Byte
  | 0, crc, _ => crc
  | n + 1, crc, cur => crcBits n (crcBit crc cur) (cur >>> 1)

/-- CRC8 of a byte list in wire order, initial value 0, no final XOR (R82). -/
def crc8 (bs : List Byte) : Byte :=
  bs.foldl (fun crc b => crcBits 8 crc b) 0#8

/-- The NODE byte: six zero bits and the node address (R78). -/
def nodeByte (node : NodeAddr) : Byte := node.setWidth 8

/-- Byte 2 of a write frame: RW = 1 and the register address (R78). -/
def writeRegByte (reg : RegAddr) : Byte := 0x80#8 ||| reg.setWidth 8

/-- Byte 2 of a read request and of a reply: RW = 0 and the register address (R79, R81). -/
def readRegByte (reg : RegAddr) : Byte := reg.setWidth 8

/-- Byte k of a data word, k = 3 the most significant (spec/20_memory.md R54). -/
def dataByte (k : Nat) (v : Word) : Byte := v.extractLsb' (8 * k) 8

/-- The four data bytes in wire order, most significant first (spec/20_memory.md R54). -/
def dataBytes (v : Word) : List Byte := [dataByte 3 v, dataByte 2 v, dataByte 1 v, dataByte 0 v]

/-- The data word of four bytes in wire order (spec/40_transport.md R123). -/
def joinBytes (b3 b2 b1 b0 : Byte) : Word := b3 ++ b2 ++ b1 ++ b0

/-- Bytes 0 to 6 of a write frame (R78). -/
def w8Body (node : NodeAddr) (reg : RegAddr) (v : Word) : List Byte :=
  [syncByte, nodeByte node, writeRegByte reg] ++ dataBytes v

/-- Bytes 0 to 2 of a read request (R79). -/
def r4Body (node : NodeAddr) (reg : RegAddr) : List Byte :=
  [syncByte, nodeByte node, readRegByte reg]

/-- Bytes 0 to 6 of a reply (R81). -/
def p8Body (reg : RegAddr) (v : Word) : List Byte :=
  [syncByte, masterByte, readRegByte reg] ++ dataBytes v

/-- The write frame that carries `MemWrite(reg, 4, v)` (spec/40_transport.md R113). -/
def buildW8 (node : NodeAddr) (reg : RegAddr) (v : Word) : List Byte :=
  w8Body node reg v ++ [crc8 (w8Body node reg v)]

/-- The read request that starts `MemRead(reg, 4)` (spec/40_transport.md R113). -/
def buildR4 (node : NodeAddr) (reg : RegAddr) : List Byte :=
  r4Body node reg ++ [crc8 (r4Body node reg)]

/-- The well-formed reply of a chip for the register `reg` with the word `v` (R81). -/
def buildP8 (reg : RegAddr) (v : Word) : List Byte :=
  p8Body reg v ++ [crc8 (p8Body reg v)]

/-- Reply validation, `WellFormed(r, addr)` of spec/40_transport.md R124: eight bytes, sync, master address, the address
asked for with RW = 0, and the CRC; nothing else is checked. -/
def replyWellFormed (r : List Byte) (reg : RegAddr) : Bool :=
  match r with
  | [b0, b1, b2, b3, b4, b5, b6, b7] =>
    b0 == syncByte && b1 == masterByte && b2 == readRegByte reg && b7 == crc8 [b0, b1, b2, b3, b4, b5, b6]
  | _ => false

/-- `ReplyValue(r)` of spec/40_transport.md R123. It is read of eight-byte replies only. -/
def replyValue (r : List Byte) : Word :=
  match r with
  | [_, _, _, b3, b4, b5, b6, _] => joinBytes b3 b4 b5 b6
  | _ => 0#32

end Sys2Proof.Machine
end

