-- ==== Sys2Proof/Machine/Ops.lean ====
section
/-! DEFINITION. The operations shared by the meanings: one transaction on the line (spec/40_transport.md R117), the read and
the write transaction (R118, R121), the field read and write (spec/41_field_codec.md R144, R146), the end of an operation by
completion and by refusal (spec/60_exceptions.md R257, R260), the edge flags (spec/42_edge_detector.md R200, R201) and the
emission of events to listeners (R214). The block takes no exception: a refusal is the one way an operation is turned away,
and nothing is entered that could be returned from (spec/60_exceptions.md R256). -/

namespace Sys2Proof.Machine

/-- What an operation that obtains a value has after it: the value, the `ok` bit and the state. -/
structure Got (α : Type) where
  value : α
  ok : Bool
  state : State

/-! ### The line -/

/-- The bytes of an answer to the transmission `tx` (spec/30_encoding.md R97). -/
def answerBytes (tx : List Byte) : WireRx → List Byte
  | .bytes rx => rx
  | .echo => tx
  | .reply bs => tx ++ bs

/-- `WireRx()`: what WIRE answers to the transmission `tx`, the next answer of the queue or a free value
(spec/40_transport.md R112). -/
def lineAnswer (s : State) (tx : List Byte) : List Byte :=
  match s.wire with
  | [] => Config.lineRx s.draws
  | a :: _ => answerBytes tx a.rx

/-- The edges that fall inside the next transaction (spec/42_edge_detector.md R200). -/
def lineEdges (s : State) : List EdgeSrc :=
  match s.wire with
  | [] => []
  | a :: _ => a.edges

/-- The state after the transaction that transmits `tx`: the frame in the TX log, the answer consumed, nothing of it kept
(spec/40_transport.md R116), and the edges that fell inside stored in their flags. -/
def transact (s : State) (tx : List Byte) : State :=
  { s with
    txLog := s.txLog ++ [tx]
    wire := s.wire.tail
    draws := s.draws + 1
    diagFlag := s.diagFlag || (lineEdges s).contains .diag
    indexFlag := s.indexFlag || (lineEdges s).contains .index }

/-- `Txn(tx, nreply)`: the reply window of the answer, the echo of `tx` dropped without comparison and the residual bytes
flushed (spec/40_transport.md R114, R116, R117). -/
def replyOf (s : State) (tx : List Byte) (nreply : Nat) : List Byte :=
  ((lineAnswer s tx).drop tx.length).take nreply

/-- The read transaction of the request `tx` for the register `reg`: a well-formed reply gives its word, any other a free
word with `ok = false` (spec/40_transport.md R121, R125). -/
def readTransaction (s : State) (tx : List Byte) (reg : RegAddr) : Got Word :=
  let ok := replyWellFormed (replyOf s tx 8) reg
  { value := if ok = true then replyValue (replyOf s tx 8) else Config.malformedWord s.draws
    ok := ok
    state := transact s tx }

/-- The write transaction of the frame `tx` carrying `v` for the register `reg`; in shadow mode it also stores the word in
`S.shadow` (spec/40_transport.md R118, spec/10_state.md R32). -/
def writeTransaction (s : State) (tx : List Byte) (reg : RegAddr) (v : Word) : State :=
  match s.params.readback with
  | .wire => transact s tx
  | .shadow => { transact s tx with shadow := s.shadow.set reg.toNat v reg.isLt }

/-- A read of `reg` is served from the shadow (spec/40_transport.md R126). -/
def readsShadow (s : State) (reg : RegAddr) : Bool :=
  s.params.readback == .shadow && classOf s.params.accessClass reg == .w

/-- `MemRead(reg, 4)` (spec/40_transport.md R121). -/
def memRead (s : State) (reg : RegAddr) : Got Word :=
  if readsShadow s reg = true then { value := s.shadow[reg.toNat]'reg.isLt, ok := true, state := s }
  else readTransaction s (buildR4 s.node reg) reg

/-- `MemWrite(reg, 4, v)` (spec/40_transport.md R118). -/
def memWrite (s : State) (reg : RegAddr) (v : Word) : State :=
  writeTransaction s (buildW8 s.node reg v) reg v

/-! ### Fields -/

/-- The read of a field: one read of its register and the extraction (spec/41_field_codec.md R144). -/
def readField (s : State) (f : FieldSpec) : Got Int :=
  let g := memRead s (fieldAddr f)
  { value := extractField f g.value, ok := g.ok, state := g.state }

/-- The write of a field: one write where the field covers its register, else a read and a write of it, whatever the read
gave (spec/41_field_codec.md R146). -/
def writeField (s : State) (f : FieldSpec) (v : Int) : Got Unit :=
  if coversRegister f = true then { value := (), ok := true, state := memWrite s (fieldAddr f) (toWord v) }
  else
    let g := memRead s (fieldAddr f)
    { value := (), ok := g.ok, state := memWrite g.state (fieldAddr f) (insertField f g.value v) }

/-- The FieldSpec of a name in the block's FIELD_TABLE. -/
def field (s : State) (n : FieldName) : FieldSpec := fieldOf s.params.fieldTable n

/-- `RFLD` of a named field. -/
def readNamed (s : State) (n : FieldName) : Got Int := readField s (field s n)

/-- `WFLD` of a named field. -/
def writeNamed (s : State) (n : FieldName) (v : Int) : Got Unit := writeField s (field s n) v

/-! ### The end of an operation -/

/-- An entry is appended to the result log (spec/10_state.md R33). -/
def logResult (s : State) (op : Option Instr) (r : OpResult) : State :=
  { s with results := s.results ++ [{ op := op, result := r }] }

/-- The operation completes (spec/60_exceptions.md R257). -/
def complete (s : State) (op : Instr) (value : Value) (ok : Option Bool) (warning : Option Warning) : State :=
  logResult s (some op) (.completed value ok warning)

/-- The operation is refused: nothing is transmitted, no block state written, no event emitted; the reason is reported
(spec/60_exceptions.md R260). -/
def refuse (s : State) (op : Option Instr) (reason : RefuseReason) : State :=
  logResult s op (.refused reason)

/-! ### Edge flags -/

/-- EDGE: true is stored in the flag of the source (spec/42_edge_detector.md R200). -/
def setFlag (s : State) : EdgeSrc → State
  | .diag => { s with diagFlag := true }
  | .index => { s with indexFlag := true }

/-- The value `TakeFlag` returns for the source's flag (spec/42_edge_detector.md R201). -/
def flagOf (s : State) : EdgeSrc → Bool
  | .diag => s.diagFlag
  | .index => s.indexFlag

/-- The state after `TakeFlag`: the flag is false (spec/42_edge_detector.md R201). -/
def clearFlag (s : State) : EdgeSrc → State
  | .diag => { s with diagFlag := false }
  | .index => { s with indexFlag := false }

/-! ### Events -/

/-- `S.prev[h] <- v`. -/
def setPrev (s : State) (h : Handler) (v : Bool) : State := { s with prev := s.prev.set h v }

/-- `Emit(e)`: e is put on the event stream (spec/00_scope.md R14). -/
def emit (s : State) (e : Event) : State := { s with events := s.events ++ [e] }

/-- What an attempt to emit a list of events leaves: whether an emission is waiting for its listeners, the events not yet
emitted, and the state. -/
structure Emission where
  waiting : Bool
  left : List Event
  state : State

/-- The events are emitted in order. After each, the listeners run before anything else (spec/42_edge_detector.md R214):
where something is pending in `nest` the emission waits for it, and where nothing is, the listeners return at once
(log 16). -/
def emitAll : List Event → State → Emission
  | [], s => { waiting := false, left := [], state := s }
  | e :: es, s =>
    match s.nest with
    | [] => emitAll es (emit s e)
    | _ :: _ => { waiting := true, left := es, state := emit s e }

/-- The operation that runs in `a` is suspended. -/
def suspend (s : State) (a : Activation) : State := { s with stack := a :: s.stack }

/-- The operation of an emitter, as the result log names it. -/
def emitterInstr : Emitter → Instr
  | .check h v => .check h v
  | .poll => .poll

/-- A POLL is in progress: a listener of it, or of a CHECK issued by one, is running (spec/42_edge_detector.md R214). -/
def inPoll (s : State) : Bool := s.stack.any (fun a => a.ctx.emitter == .poll)

end Sys2Proof.Machine
end

