-- ==== Sys2Proof/Machine/CurrentQuantizer.lean ====
section
/-! DEFINITION. CQ: the forward quantizer, the hold scale and the inverse DAC function, and the meanings of the operations
built on them (spec/43_current_quantizer.md). -/

namespace Sys2Proof.Machine

/-- `a = I * (S.rsense + R_INT) / V`, so that `x(I, V) = 32√2 · a` (spec/43_current_quantizer.md R228). -/
def senseRatio (s : State) (amps volts : Rat) : Rat := amps * (s.rsense + s.params.rInt) / volts

/-- `k = 0` or `(2k - 1)² < 8192 a²`: the test of spec/43_current_quantizer.md R228, true exactly of `k ≤ round(32√2 · a)`. -/
def belowRound (a : Rat) (k : Nat) : Bool :=
  k == 0 || decide ((2 * (k : Rat) - 1) ^ 2 < 8192 * a ^ 2)

/-- The greatest `k < acc + 2^n` at or above `acc` that passes `belowRound`, found bit by bit from the highest. -/
def roundSearch (a : Rat) : Nat → Nat → Nat
  | 0, acc => acc
  | n + 1, acc => roundSearch a n (if belowRound a (acc + 2 ^ n) then acc + 2 ^ n else acc)

/-- A number of bits that holds `round(32√2 · a)`, from `32√2 < 46`. -/
def roundBits (a : Rat) : Nat := Nat.log2 (46 * a.ceil.toNat + 1) + 1

/-- `round(32√2 · a)`, the greatest k that passes the test (spec/43_current_quantizer.md R228; log 29). -/
def roundSqrt2 (a : Rat) : Nat := roundSearch a (roundBits a) 0

/-- `Q(I, V) = round(x(I, V)) - 1` (spec/43_current_quantizer.md R227). -/
def quantize (s : State) (amps volts : Rat) : Int := (roundSqrt2 (senseRatio s amps volts) : Int) - 1

/-- The result of the forward quantizer. -/
structure Forward where
  scale : Int
  vsense : Bool
  warn : Bool
deriving DecidableEq, Repr

/-- The end of `CSFwd`: the clamp to 0..31 and the warning of the upper clamp (spec/43_current_quantizer.md R229). -/
def clampScale (scale : Int) (vsense : Bool) : Forward :=
  { scale := clamp 0 31 scale, vsense := vsense, warn := decide (31 < scale) }

/-- `CSFwd(I)`: the range selection on the unclamped first result, the recomputation in the high-sensitivity range, the
clamp (spec/43_current_quantizer.md R230). -/
def csForward (s : State) (amps : Rat) : Forward :=
  if quantize s amps s.params.vfsHi < 16 then clampScale (quantize s amps s.params.vfsLo) true
  else clampScale (quantize s amps s.params.vfsHi) false

/-- `Hold(s) = round_half_away(s * S.hold_fraction)` (spec/43_current_quantizer.md R232). -/
def holdScale (s : State) (scale : Int) : Int := roundHalfAway ((scale : Rat) * s.holdFraction)

/-- The full-scale voltage of a range (spec/43_current_quantizer.md R226). -/
def fullScale (p : Params) (vsense : Bool) : Rat := if vsense then p.vfsLo else p.vfsHi

/-- The rational `q` of `CSInv(s, vs) = q · √2` (spec/43_current_quantizer.md R236; log 18). -/
def csInverse (s : State) (scale : Int) (vsense : Bool) : Rat :=
  ((scale : Rat) + 1) * fullScale s.params vsense / (64 * (s.rsense + s.params.rInt))

/-- CS_FWD I (spec/43_current_quantizer.md R231). -/
def execCsFwd (amps : Rat) (s : State) : Host.Outcome State Fault Refusal :=
  .next
    (if amps < 0 then refuse s (some (.csFwd amps)) .domain
    else
      complete s (.csFwd amps) (.scale (csForward s amps).scale (csForward s amps).vsense) none
        (warnScale (csForward s amps).warn))

/-- CS_INV s, vs (spec/43_current_quantizer.md R237). -/
def execCsInv (scale : Int) (vsense : Bool) (s : State) : Host.Outcome State Fault Refusal :=
  .next
    (if isU5 scale then complete s (.csInv scale vsense) (.current (csInverse s scale vsense)) none none
    else refuse s (some (.csInv scale vsense)) .badOperand)

/-- SET_RMS I: the target is stored, then VSENSE, IRUN and IHOLD are written in this order
(spec/43_current_quantizer.md R233). -/
def execSetRms (amps : Rat) (s : State) : Host.Outcome State Fault Refusal :=
  .next
    (if amps < 0 then refuse s (some (.setRms amps)) .domain
    else
      let r := csForward s amps
      let g1 := writeNamed { s with rmsTarget := some amps } .vsense (if r.vsense then 1 else 0)
      let g2 := writeNamed g1.state .irun r.scale
      let g3 := writeNamed g2.state .ihold (holdScale s r.scale)
      complete g3.state (.setRms amps) .none (some (g1.ok && g2.ok && g3.ok)) (warnScale r.warn))

/-- GET_RMS: VSENSE, then IRUN, read from the chip, and the inverse of what was read (spec/43_current_quantizer.md R238). -/
def execGetRms (s : State) : Host.Outcome State Fault Refusal :=
  .next
    (let g1 := readNamed s .vsense
    let g2 := readNamed g1.state .irun
    complete g2.state .getRms (.current (csInverse s g2.value (g1.value != 0))) (some (g1.ok && g2.ok)) none)

/-- SET_HOLDFRAC f (spec/43_current_quantizer.md R240). -/
def execSetHoldfrac (f : Rat) (s : State) : Host.Outcome State Fault Refusal :=
  .next
    (if f < 0 ∨ 1 < f then refuse s (some (.setHoldfrac f)) .domain
    else complete { s with holdFraction := f } (.setHoldfrac f) .none none none)

/-- GET_HOLDFRAC (spec/43_current_quantizer.md R241). -/
def execGetHoldfrac (s : State) : Host.Outcome State Fault Refusal :=
  .next (complete s .getHoldfrac (.rat s.holdFraction) none none)

end Sys2Proof.Machine
end

