-- ==== Sys2Proof/Machine/EdgeDetector.lean ====
section
/-! DEFINITION. EDB: the handler step with its event lists, the inputs of a poll, the poll sequencer with its suspension at
every emission, and the meanings of CHECK, POLL and EDGE (spec/42_edge_detector.md). -/

namespace Sys2Proof.Machine

/-! ### The handler step -/

/-- `RiseEvents(h)` (spec/42_edge_detector.md R196). -/
def riseEvents : Handler → List Event
  | .diag => [.diagTriggered, .stalled]
  | .index => [.indexTriggered]
  | .nt => [.temperatureNormal]
  | .otpw => [.overtemperaturePrewarning]
  | .ot => [.overtemperature]
  | .t120 => [.above120]
  | .t143 => [.above143]
  | .t150 => [.above150]
  | .t157 => [.above157]

/-- `FallEvents(h)` (spec/42_edge_detector.md R196). -/
def fallEvents : Handler → List Event
  | .diag => []
  | .index => []
  | .nt => []
  | .otpw => []
  | .ot => []
  | .t120 => [.below120]
  | .t143 => [.below143]
  | .t150 => [.below150]
  | .t157 => [.below157]

/-- The events of a handler step whose cell holds `p` and whose input is `v` (spec/42_edge_detector.md R193). -/
def stepEvents (h : Handler) (p v : Bool) : List Event :=
  if v = p then [] else if v = true then riseEvents h else fallEvents h

/-- The rest of the handler step of `h` with the input `v` and the events `pending` still to be emitted: they are emitted,
then `S.prev[h]` is written and the operation goes on with `k`. Where an emission has to wait for its listeners, the
operation is suspended with what is left (spec/42_edge_detector.md R193, R214). -/
def handlerStep (ctx : EmitterCtx) (h : Handler) (v : Bool) (pending : List Event) (rest : List Handler)
    (k : State → State) (s : State) : State :=
  let m := emitAll pending s
  if m.waiting then suspend m.state { ctx := ctx, handler := h, input := v, pending := m.left, rest := rest }
  else k (setPrev m.state h v)

/-! ### The inputs of a poll -/

/-- One input of a poll: its value, the `ok` bit of the reads it took, the snapshot afterwards, and the state. -/
structure Sample where
  value : Bool
  ok : Bool
  snapshot : Option Word
  state : State

/-- `DiagIn()` (spec/42_edge_detector.md R203). -/
def diagIn (snapshot : Option Word) (s : State) : Sample :=
  if s.irqDiag then { value := flagOf s .diag, ok := true, snapshot := snapshot, state := clearFlag s .diag }
  else
    match s.params.diagPollSource with
    | .register =>
      let g := readNamed s .diag
      { value := g.value != 0, ok := g.ok, snapshot := snapshot, state := g.state }
    | .pin =>
      { value := Config.diagPin s.draws, ok := true, snapshot := snapshot, state := { s with draws := s.draws + 1 } }

/-- `IndexIn()` (spec/42_edge_detector.md R204). -/
def indexIn (snapshot : Option Word) (s : State) : Sample :=
  if s.irqIndex then { value := flagOf s .index, ok := true, snapshot := snapshot, state := clearFlag s .index }
  else
    match s.params.indexPollSource with
    | .constFalse => { value := false, ok := true, snapshot := snapshot, state := s }
    | .pin =>
      { value := Config.indexPin s.draws, ok := true, snapshot := snapshot, state := { s with draws := s.draws + 1 } }

/-- One field of DRV_STATUS: a read of its own with `per_field`; with `single` the one word of this poll, read when the
first field is needed (spec/42_edge_detector.md R205, R208). -/
def statusField (n : FieldName) (snapshot : Option Word) (s : State) : Got Int × Option Word :=
  match s.params.pollSnapshot with
  | .perField => (readNamed s n, snapshot)
  | .single =>
    match snapshot with
    | some w => ({ value := extractField (field s n) w, ok := true, state := s }, some w)
    | none =>
      let g := memRead s regDrvStatus
      ({ value := extractField (field s n) g.value, ok := g.ok, state := g.state }, some g.value)

/-- The input of a handler that is one field of DRV_STATUS (spec/42_edge_detector.md R205). -/
def statusIn (n : FieldName) (snapshot : Option Word) (s : State) : Sample :=
  let r := statusField n snapshot s
  { value := r.1.value != 0, ok := r.1.ok, snapshot := r.2, state := r.1.state }

/-- The temperature-normal input, `otpw = 0` and `ot = 0` (spec/42_edge_detector.md R206). -/
def normalIn (snapshot : Option Word) (s : State) : Sample :=
  let a := statusField .otpw snapshot s
  let b := statusField .ot a.2 a.1.state
  { value := a.1.value == 0 && b.1.value == 0, ok := a.1.ok && b.1.ok, snapshot := b.2, state := b.1.state }

/-- The input of a handler in a poll (spec/42_edge_detector.md R207). -/
def acquire (h : Handler) (snapshot : Option Word) (s : State) : Sample :=
  match h with
  | .diag => diagIn snapshot s
  | .index => indexIn snapshot s
  | .nt => normalIn snapshot s
  | .otpw => statusIn .otpw snapshot s
  | .ot => statusIn .ot snapshot s
  | .t120 => statusIn .t120 snapshot s
  | .t143 => statusIn .t143 snapshot s
  | .t150 => statusIn .t150 snapshot s
  | .t157 => statusIn .t157 snapshot s

/-! ### The sequencer -/

/-- The `ok` result: CHECK has none, POLL the AND of its reads (spec/42_edge_detector.md R210). -/
def emitterOk (ctx : EmitterCtx) : Option Bool :=
  match ctx.emitter with
  | .check _ _ => none
  | .poll => some ctx.ok

/-- A CHECK or POLL ends: its events and its `ok` bit are its result (spec/30_encoding.md R95; log 28). -/
def finishEmitter (ctx : EmitterCtx) (s : State) : State :=
  complete s (emitterInstr ctx.emitter) (.events ctx.events) (emitterOk ctx) none

/-- What a handler's input adds to the running operation: its `ok`, the snapshot, and the events of its step. -/
def withSample (ctx : EmitterCtx) (g : Sample) (es : List Event) : EmitterCtx :=
  { ctx with ok := ctx.ok && g.ok, snapshot := g.snapshot, events := ctx.events ++ es }

/-- The handlers still to run: for each in order its input is acquired and its step run; then the operation ends
(spec/42_edge_detector.md R207, R208). -/
def runHandlers : List Handler → EmitterCtx → State → State
  | [], ctx, s => finishEmitter ctx s
  | h :: rest, ctx, s =>
    let g := acquire h ctx.snapshot s
    let es := stepEvents h (g.state.prev.get h) g.value
    let ctx' := withSample ctx g es
    handlerStep ctx' h g.value es rest (runHandlers rest ctx') g.state

/-- The suspended operation goes on after its listeners have returned (spec/42_edge_detector.md R214). -/
def resumeActivation (a : Activation) (s : State) : State :=
  handlerStep a.ctx a.handler a.input a.pending a.rest (runHandlers a.rest a.ctx) s

/-- CHECK h, v: one handler step (spec/42_edge_detector.md R194). -/
def execCheck (h : Int) (v : Bool) (s : State) : Host.Outcome State Fault Refusal :=
  .next
    (match handlerOfId h with
    | some hd =>
      let es := stepEvents hd (s.prev.get hd) v
      let ctx : EmitterCtx := { emitter := .check h v, ok := true, snapshot := none, events := es }
      handlerStep ctx hd v es [] (finishEmitter ctx) s
    | none => refuse s (some (.check h v)) .badOperand)

/-- POLL: the nine handler steps in order (spec/42_edge_detector.md R207), refused to a listener during a POLL (R214). -/
def execPoll (s : State) : Host.Outcome State Fault Refusal :=
  .next
    (if inPoll s then refuse s (some .poll) .nested
    else runHandlers handlerOrder { emitter := .poll, ok := true, snapshot := none, events := [] } s)

/-- EDGE src: the flag of the source is set (spec/42_edge_detector.md R200). -/
def execEdge (src : EdgeSrc) (s : State) : Host.Outcome State Fault Refusal :=
  .next (setFlag s src)

end Sys2Proof.Machine
end

