-- ==== Sys2Proof/Machine/FieldCodec.lean ====
section
/-! DEFINITION. FC: the meanings of the field operations and of the chip's configuration operations
(spec/41_field_codec.md sections 2 to 5). -/

namespace Sys2Proof.Machine

/-! ### Shapes shared by the meanings -/

/-- An operation that writes one named field and returns its `ok` bit and a warning. -/
def setNamed (op : Instr) (n : FieldName) (v : Int) (warning : Option Warning) (s : State) : State :=
  let g := writeNamed s n v
  complete g.state op .none (some g.ok) warning

/-- An operation that reads one named field and returns a function of its value, with `ok`. -/
def getNamed (op : Instr) (n : FieldName) (f : Int → Value) (s : State) : State :=
  let g := readNamed s n
  complete g.state op (f g.value) (some g.ok) none

/-- An operation that reads one whole register. -/
def getRegister (op : Instr) (reg : RegAddr) (s : State) : State :=
  let g := memRead s reg
  complete g.state op (.word g.value) (some g.ok) none

/-- The hold-delay factor is clamped, with its warning, and written (spec/41_field_codec.md R159, R160). -/
def setHoldDelay (op : Instr) (raw : Int) (s : State) : State :=
  setNamed op .iholddelay (clampHold raw) (warnHold raw) s

/-- The power-down factor is clamped, with its warning, and written (spec/41_field_codec.md R165, R166). -/
def setPowerDown (op : Instr) (raw : Int) (s : State) : State :=
  setNamed op .tpowerdown (clampPower raw) (warnPower raw) s

/-! ### Field operations -/

/-- RFLD f (spec/41_field_codec.md R144). -/
def execRfld (f : FieldRef) (s : State) : Host.Outcome State Fault Refusal :=
  .next
    (let spec := resolveField s.params.fieldTable f
    if fieldSpecOk spec then
      let g := readField s spec
      complete g.state (.rfld f) (.int g.value) (some g.ok) none
    else refuse s (some (.rfld f)) .badFieldSpec)

/-- WFLD f, v (spec/41_field_codec.md R146). -/
def execWfld (f : FieldRef) (v : Int) (s : State) : Host.Outcome State Fault Refusal :=
  .next
    (let spec := resolveField s.params.fieldTable f
    if fieldSpecOk spec then
      let g := writeField s spec v
      complete g.state (.wfld f v) .none (some g.ok) none
    else refuse s (some (.wfld f v)) .badFieldSpec)

/-! ### Microstep resolution -/

/-- SET_MSTEP n: a member of MSTEPS is encoded and written to MRES; any other n is ignored without traffic
(spec/41_field_codec.md R150). -/
def execSetMstep (n : Int) (s : State) : Host.Outcome State Fault Refusal :=
  .next
    (match mstepEncode n with
    | some code => setNamed (.setMstep n) .mres code none s
    | none => complete s (.setMstep n) .none (some true) none)

/-- GET_MSTEP: MRES decoded; a code that encodes no resolution gives a free integer (spec/41_field_codec.md R151, R152;
log 14). The counter advances with the read, so the draw is numbered by the state after it. -/
def execGetMstep (s : State) : Host.Outcome State Fault Refusal :=
  .next
    (let g := readNamed s .mres
    complete { g.state with draws := g.state.draws + 1 } .getMstep
      (.int ((mstepDecode g.value).getD (Config.mstepDraw g.state.draws))) (some g.ok) none)

/-! ### Delay factors -/

/-- SET_IHOLDDELAY raw (spec/41_field_codec.md R159). -/
def execSetIholddelay (raw : Int) (s : State) : Host.Outcome State Fault Refusal :=
  .next
    (if raw < 0 then refuse s (some (.setIholddelay raw)) .domain
    else setHoldDelay (.setIholddelay raw) raw s)

/-- SET_IHOLDDELAY_MS ms (spec/41_field_codec.md R161). -/
def execSetIholddelayMs (ms : Rat) (s : State) : Host.Outcome State Fault Refusal :=
  .next
    (if ms < 0 then refuse s (some (.setIholddelayMs ms)) .domain
    else setHoldDelay (.setIholddelayMs ms) (msToRaw s ms) s)

/-- GET_IHOLDDELAY (spec/41_field_codec.md R162). -/
def execGetIholddelay (s : State) : Host.Outcome State Fault Refusal :=
  .next (getNamed .getIholddelay .iholddelay .int s)

/-- GET_IHOLDDELAY_MS (spec/41_field_codec.md R163). -/
def execGetIholddelayMs (s : State) : Host.Outcome State Fault Refusal :=
  .next (getNamed .getIholddelayMs .iholddelay (fun raw => .rat (rawToMs s raw)) s)

/-- SET_TPOWERDOWN raw (spec/41_field_codec.md R165). -/
def execSetTpowerdown (raw : Int) (s : State) : Host.Outcome State Fault Refusal :=
  .next
    (if raw < 0 then refuse s (some (.setTpowerdown raw)) .domain
    else setPowerDown (.setTpowerdown raw) raw s)

/-- SET_TPOWERDOWN_MS ms (spec/41_field_codec.md R167). -/
def execSetTpowerdownMs (ms : Rat) (s : State) : Host.Outcome State Fault Refusal :=
  .next
    (if ms < 0 then refuse s (some (.setTpowerdownMs ms)) .domain
    else setPowerDown (.setTpowerdownMs ms) (msToRaw s ms) s)

/-- GET_TPOWERDOWN (spec/41_field_codec.md R168). -/
def execGetTpowerdown (s : State) : Host.Outcome State Fault Refusal :=
  .next (getNamed .getTpowerdown .tpowerdown .int s)

/-- GET_TPOWERDOWN_MS (spec/41_field_codec.md R169). -/
def execGetTpowerdownMs (s : State) : Host.Outcome State Fault Refusal :=
  .next (getNamed .getTpowerdownMs .tpowerdown (fun raw => .rat (rawToMs s raw)) s)

/-! ### Stall detection and version -/

/-- SET_SGTHRS v: the zero-extended threshold is written whole, with no read (spec/41_field_codec.md R171). -/
def execSetSgthrs (v : Int) (s : State) : Host.Outcome State Fault Refusal :=
  .next
    (if isU8 v then complete (memWrite s regSgthrs (toWord v)) (.setSgthrs v) .none none none
    else refuse s (some (.setSgthrs v)) .badOperand)

/-- GET_SGTHRS (spec/41_field_codec.md R172). -/
def execGetSgthrs (s : State) : Host.Outcome State Fault Refusal :=
  .next (getRegister .getSgthrs regSgthrs s)

/-- GET_SGRESULT: the word is passed through whole (spec/41_field_codec.md R173). -/
def execGetSgresult (s : State) : Host.Outcome State Fault Refusal :=
  .next (getRegister .getSgresult regSgresult s)

/-- SET_TCOOLTHRS v: reduced modulo the field's width, without clamp or warning (spec/41_field_codec.md R174, R175). -/
def execSetTcoolthrs (v : Int) (s : State) : Host.Outcome State Fault Refusal :=
  .next
    (if v < 0 then refuse s (some (.setTcoolthrs v)) .domain
    else setNamed (.setTcoolthrs v) .tcoolthrs v none s)

/-- GET_TCOOLTHRS (spec/41_field_codec.md R176). -/
def execGetTcoolthrs (s : State) : Host.Outcome State Fault Refusal :=
  .next (getNamed .getTcoolthrs .tcoolthrs .int s)

/-- GET_VERSION: the raw field, not judged (spec/41_field_codec.md R177, R178). -/
def execGetVersion (s : State) : Host.Outcome State Fault Refusal :=
  .next (getNamed .getVersion .version .int s)

end Sys2Proof.Machine
end

