-- ==== Sys2Proof/Machine/LocalConfig.lean ====
section
/-! DEFINITION. The meanings of the local configuration operations, which cause no wire traffic
(spec/41_field_codec.md section 6), and of SETUP (spec/70_reset_and_hazards.md R281). -/

namespace Sys2Proof.Machine

/-- SET_FOSC f (spec/41_field_codec.md R180). -/
def execSetFosc (f : Rat) (s : State) : Host.Outcome State Fault Refusal :=
  .next
    (if f ≤ 0 then refuse s (some (.setFosc f)) .domain
    else complete { s with fosc := f } (.setFosc f) .none none none)

/-- GET_FOSC (spec/41_field_codec.md R181). -/
def execGetFosc (s : State) : Host.Outcome State Fault Refusal :=
  .next (complete s .getFosc (.rat s.fosc) none none)

/-- SET_RSENSE r, internal (spec/41_field_codec.md R182). -/
def execSetRsense (r : Rat) (internal : Bool) (s : State) : Host.Outcome State Fault Refusal :=
  .next
    (if r ≤ 0 then refuse s (some (.setRsense r internal)) .domain
    else complete { s with rsense := r, internalRsense := internal } (.setRsense r internal) .none none none)

/-- GET_RSENSE (spec/41_field_codec.md R183). -/
def execGetRsense (s : State) : Host.Outcome State Fault Refusal :=
  .next (complete s .getRsense (.sense s.rsense s.internalRsense) none none)

/-- SET_NODEADDR a: admitted in phase CONFIG only; a badly typed operand is reported before the phase
(spec/41_field_codec.md R185, spec/60_exceptions.md R262). -/
def execSetNodeaddr (a : Int) (s : State) : Host.Outcome State Fault Refusal :=
  .next
    (if isU2 a then
      match s.phase with
      | .config => complete { s with node := toNode a } (.setNodeaddr a) .none none none
      | .running => refuse s (some (.setNodeaddr a)) .nodeAddrFixed
    else refuse s (some (.setNodeaddr a)) .badOperand)

/-- GET_NODEADDR (spec/41_field_codec.md R186). -/
def execGetNodeaddr (s : State) : Host.Outcome State Fault Refusal :=
  .next (complete s .getNodeaddr (.node s.node) none none)

/-- The shadow after SETUP: reloaded from SHADOW_RESET in shadow mode only (spec/70_reset_and_hazards.md R281). -/
def shadowAfterSetup (s : State) : Vector Word 128 :=
  match s.params.readback with
  | .wire => s.shadow
  | .shadow => s.params.shadowReset

/-- SETUP (spec/70_reset_and_hazards.md R281), refused to a listener during a POLL (spec/42_edge_detector.md R214). -/
def execSetup (s : State) : Host.Outcome State Fault Refusal :=
  .next
    (if inPoll s then refuse s (some .setup) .nested
    else
      complete
        { s with
          phase := .running
          prev := .clear
          diagFlag := false
          indexFlag := false
          shadow := shadowAfterSetup s } .setup .none none none)

end Sys2Proof.Machine
end

