-- ==== Sys2Proof/Machine/Transport.lean ====
section
/-! DEFINITION. FRM: the meanings of WREG and RREG (spec/40_transport.md R119, R122) and of the three wire frames at FRM's
lower interface (spec/30_encoding.md R78, R79, R81, spec/40_transport.md R128). -/

namespace Sys2Proof.Machine

/-- WREG addr, value: one write transaction (spec/40_transport.md R119). -/
def execWreg (addr value : Int) (s : State) : Host.Outcome State Fault Refusal :=
  .next
    (if isU7 addr && isU32 value then
      complete (memWrite s (toAddr addr) (toWord value)) (.wreg addr value) .none none none
    else refuse s (some (.wreg addr value)) .badOperand)

/-- RREG addr: one read transaction, its word and `ok` returned (spec/40_transport.md R122). -/
def execRreg (addr : Int) (s : State) : Host.Outcome State Fault Refusal :=
  .next
    (if isU7 addr then
      let g := memRead s (toAddr addr)
      complete g.state (.rreg addr) (.word g.value) (some g.ok) none
    else refuse s (some (.rreg addr)) .badOperand)

/-- W8 at FRM's lower interface: one transaction that transmits the frame, the write transaction the frame carries
(spec/30_encoding.md R78, spec/40_transport.md R118, R128). A frame that the block never sends, with another node address or
a wrong CRC (R80, R127), is refused [DESIGN CHOICE, log 8]. -/
def execW8 (node : NodeAddr) (reg : RegAddr) (data : Word) (crc : Byte) (s : State) :
    Host.Outcome State Fault Refusal :=
  .next
    (if node == s.node && crc == crc8 (w8Body node reg data) then
      complete (writeTransaction s (w8Body node reg data ++ [crc]) reg data) (.w8 node reg data crc) .none none none
    else refuse s (some (.w8 node reg data crc)) .badOperand)

/-- R4 at FRM's lower interface: one transaction that transmits the request and judges the reply, the read transaction the
frame starts (spec/30_encoding.md R79, spec/40_transport.md R121, R128). A frame that the block never sends is refused
[DESIGN CHOICE, log 8]. -/
def execR4 (node : NodeAddr) (reg : RegAddr) (crc : Byte) (s : State) : Host.Outcome State Fault Refusal :=
  .next
    (if node == s.node && crc == crc8 (r4Body node reg) then
      let g := readTransaction s (r4Body node reg ++ [crc]) reg
      complete g.state (.r4 node reg crc) (.word g.value) (some g.ok) none
    else refuse s (some (.r4 node reg crc)) .badOperand)

/-- P8, the reply frame, an input of the WIRE agent: it answers the first transaction that has no answer yet with the echo
and this frame (the `@REPLY` line of spec/30_encoding.md R97). The read that takes the answer validates it (R81,
spec/40_transport.md R124) [DESIGN CHOICE, log 9]. -/
def execP8 (reg : RegAddr) (data : Word) (crc : Byte) (s : State) : Host.Outcome State Fault Refusal :=
  .next { s with wire := s.wire ++ [{ rx := .reply (p8Body reg data ++ [crc]), edges := [] }] }

end Sys2Proof.Machine
end

