-- ==== Sys2Proof/Machine/Dispatch.lean ====
section
/-! DEFINITION. The dispatch: one arm for every instruction, each a direct call of its meaning. -/

namespace Sys2Proof.Machine

def exec (i : Instr) (s : State) : Host.Outcome State Fault Refusal :=
  match i with
  | .wreg addr value => Sys2Proof.Machine.execWreg addr value s
  | .rreg addr => Sys2Proof.Machine.execRreg addr s
  | .rfld f => Sys2Proof.Machine.execRfld f s
  | .wfld f v => Sys2Proof.Machine.execWfld f v s
  | .setMstep n => Sys2Proof.Machine.execSetMstep n s
  | .getMstep => Sys2Proof.Machine.execGetMstep s
  | .setIholddelay raw => Sys2Proof.Machine.execSetIholddelay raw s
  | .setIholddelayMs ms => Sys2Proof.Machine.execSetIholddelayMs ms s
  | .getIholddelay => Sys2Proof.Machine.execGetIholddelay s
  | .getIholddelayMs => Sys2Proof.Machine.execGetIholddelayMs s
  | .setTpowerdown raw => Sys2Proof.Machine.execSetTpowerdown raw s
  | .setTpowerdownMs ms => Sys2Proof.Machine.execSetTpowerdownMs ms s
  | .getTpowerdown => Sys2Proof.Machine.execGetTpowerdown s
  | .getTpowerdownMs => Sys2Proof.Machine.execGetTpowerdownMs s
  | .setSgthrs v => Sys2Proof.Machine.execSetSgthrs v s
  | .getSgthrs => Sys2Proof.Machine.execGetSgthrs s
  | .getSgresult => Sys2Proof.Machine.execGetSgresult s
  | .setTcoolthrs v => Sys2Proof.Machine.execSetTcoolthrs v s
  | .getTcoolthrs => Sys2Proof.Machine.execGetTcoolthrs s
  | .getVersion => Sys2Proof.Machine.execGetVersion s
  | .csFwd amps => Sys2Proof.Machine.execCsFwd amps s
  | .csInv scale vsense => Sys2Proof.Machine.execCsInv scale vsense s
  | .setRms amps => Sys2Proof.Machine.execSetRms amps s
  | .getRms => Sys2Proof.Machine.execGetRms s
  | .setHoldfrac f => Sys2Proof.Machine.execSetHoldfrac f s
  | .getHoldfrac => Sys2Proof.Machine.execGetHoldfrac s
  | .setRsense r internal => Sys2Proof.Machine.execSetRsense r internal s
  | .getRsense => Sys2Proof.Machine.execGetRsense s
  | .setFosc f => Sys2Proof.Machine.execSetFosc f s
  | .getFosc => Sys2Proof.Machine.execGetFosc s
  | .setNodeaddr a => Sys2Proof.Machine.execSetNodeaddr a s
  | .getNodeaddr => Sys2Proof.Machine.execGetNodeaddr s
  | .check h v => Sys2Proof.Machine.execCheck h v s
  | .poll => Sys2Proof.Machine.execPoll s
  | .setup => Sys2Proof.Machine.execSetup s
  | .edge src => Sys2Proof.Machine.execEdge src s
  | .w8 node reg data crc => Sys2Proof.Machine.execW8 node reg data crc s
  | .r4 node reg crc => Sys2Proof.Machine.execR4 node reg crc s
  | .p8 reg data crc => Sys2Proof.Machine.execP8 reg data crc s

end Sys2Proof.Machine
end

