-- ==== Sys2Proof/WellFormed.lean ====
section
/-! DEFINITION. Well-formed instructions: every operand lies in its type and in the narrower domain its rule states
(spec/30_encoding.md R85, R96, spec/60_exceptions.md R261), and a frame carries the CRC of its bytes (spec/30_encoding.md
R78, R79, R81). A named FieldSpec is well-formed as an operand; that its entry of FIELD_TABLE is well-formed is a property of
the parameters (`paramsOk` of Safety.lean). -/

namespace Sys2Proof

open Machine

/-- A FieldSpec operand: a name, or a well-formed literal (R85, R96). -/
def fieldRefOk : FieldRef → Bool
  | .named _ => true
  | .literal f => fieldSpecOk f

/-- Every operand of the instruction lies in its type and domain. -/
def wellFormed : Instr → Bool
  | .wreg addr value => isU7 addr && isU32 value
  | .rreg addr => isU7 addr
  | .rfld f => fieldRefOk f
  | .wfld f _ => fieldRefOk f
  | .setMstep _ => true
  | .getMstep => true
  | .setIholddelay raw => decide (0 ≤ raw)
  | .setIholddelayMs ms => decide (0 ≤ ms)
  | .getIholddelay => true
  | .getIholddelayMs => true
  | .setTpowerdown raw => decide (0 ≤ raw)
  | .setTpowerdownMs ms => decide (0 ≤ ms)
  | .getTpowerdown => true
  | .getTpowerdownMs => true
  | .setSgthrs v => isU8 v
  | .getSgthrs => true
  | .getSgresult => true
  | .setTcoolthrs v => decide (0 ≤ v)
  | .getTcoolthrs => true
  | .getVersion => true
  | .csFwd amps => decide (0 ≤ amps)
  | .csInv scale _ => isU5 scale
  | .setRms amps => decide (0 ≤ amps)
  | .getRms => true
  | .setHoldfrac f => decide (0 ≤ f) && decide (f ≤ 1)
  | .getHoldfrac => true
  | .setRsense r _ => decide (0 < r)
  | .getRsense => true
  | .setFosc f => decide (0 < f)
  | .getFosc => true
  | .setNodeaddr a => isU2 a
  | .getNodeaddr => true
  | .check h _ => (handlerOfId h).isSome
  | .poll => true
  | .setup => true
  | .edge _ => true
  | .w8 node reg data crc => crc == crc8 (w8Body node reg data)
  | .r4 node reg crc => crc == crc8 (r4Body node reg)
  | .p8 reg data crc => crc == crc8 (p8Body reg data)

end Sys2Proof
end

