-- ==== Sys2Proof/Decode.lean ====
section
/-! DEFINITION. The decoder of the block's inputs and its encoder: the host-op codes of spec/30_encoding.md R95 with their
operand types (R96), the reserved codes (R99), the frame formats by their fixed bits (R78, R79, R81), the pseudo-operations
(R98), and the event and handler codes (R100, spec/10_state.md R28). An input that is no instruction is rejected with the
reason of the refusal (spec/60_exceptions.md R261). -/

namespace Sys2Proof

open Machine

/-! ### Operands -/

/-- An operand of an integer type: an exact number that is an integer (R96). -/
def Operand.int? : Operand → Option Int
  | .num q => if q.den = 1 then some q.num else none
  | _ => none

/-- An operand of type ℚ. -/
def Operand.rat? : Operand → Option Rat
  | .num q => some q
  | _ => none

/-- An operand of type Bool. -/
def Operand.bool? : Operand → Option Bool
  | .flag b => some b
  | _ => none

/-- A FieldSpec operand. -/
def Operand.field? : Operand → Option FieldRef
  | .field f => some f
  | _ => none

/-- The source operand of EDGE. -/
def Operand.source? : Operand → Option EdgeSrc
  | .source e => some e
  | _ => none

/-- An instruction, or BAD_OPERAND where an operand was not of its kind. -/
def orBadOperand : Option Instr → Except RefuseReason Instr
  | some i => .ok i
  | none => .error .badOperand

/-- An operation without operands. -/
def noArgs (op : Instr) : List Operand → Option Instr
  | [] => some op
  | _ => none

/-- An operation with one operand. -/
def oneArg {α : Type} (read : Operand → Option α) (op : α → Instr) : List Operand → Option Instr
  | [a] => (read a).map op
  | _ => none

/-- An operation with two operands. -/
def twoArgs {α β : Type} (read₁ : Operand → Option α) (read₂ : Operand → Option β) (op : α → β → Instr) :
    List Operand → Option Instr
  | [a, b] => (read₁ a).bind fun x => (read₂ b).map fun y => op x y
  | _ => none

/-! ### Commands -/

/-- The operation of a host-op code and its operands (R95); the code is given as a number. -/
def decodeCommand (code : Nat) (args : List Operand) : Except RefuseReason Instr :=
  match code with
  | 0x01 => orBadOperand (twoArgs Operand.int? Operand.int? .wreg args)
  | 0x02 => orBadOperand (oneArg Operand.int? .rreg args)
  | 0x03 => orBadOperand (oneArg Operand.field? .rfld args)
  | 0x04 => orBadOperand (twoArgs Operand.field? Operand.int? .wfld args)
  | 0x10 => orBadOperand (oneArg Operand.int? .setMstep args)
  | 0x11 => orBadOperand (noArgs .getMstep args)
  | 0x12 => orBadOperand (oneArg Operand.int? .setIholddelay args)
  | 0x13 => orBadOperand (oneArg Operand.rat? .setIholddelayMs args)
  | 0x14 => orBadOperand (noArgs .getIholddelay args)
  | 0x15 => orBadOperand (noArgs .getIholddelayMs args)
  | 0x16 => orBadOperand (oneArg Operand.int? .setTpowerdown args)
  | 0x17 => orBadOperand (oneArg Operand.rat? .setTpowerdownMs args)
  | 0x18 => orBadOperand (noArgs .getTpowerdown args)
  | 0x19 => orBadOperand (noArgs .getTpowerdownMs args)
  | 0x1A => orBadOperand (oneArg Operand.int? .setSgthrs args)
  | 0x1B => orBadOperand (noArgs .getSgthrs args)
  | 0x1C => orBadOperand (noArgs .getSgresult args)
  | 0x1D => orBadOperand (oneArg Operand.int? .setTcoolthrs args)
  | 0x1E => orBadOperand (noArgs .getTcoolthrs args)
  | 0x1F => orBadOperand (noArgs .getVersion args)
  | 0x20 => orBadOperand (oneArg Operand.rat? .csFwd args)
  | 0x21 => orBadOperand (twoArgs Operand.int? Operand.bool? .csInv args)
  | 0x22 => orBadOperand (oneArg Operand.rat? .setRms args)
  | 0x23 => orBadOperand (noArgs .getRms args)
  | 0x24 => orBadOperand (oneArg Operand.rat? .setHoldfrac args)
  | 0x25 => orBadOperand (noArgs .getHoldfrac args)
  | 0x26 => orBadOperand (twoArgs Operand.rat? Operand.bool? .setRsense args)
  | 0x27 => orBadOperand (noArgs .getRsense args)
  | 0x28 => orBadOperand (oneArg Operand.rat? .setFosc args)
  | 0x29 => orBadOperand (noArgs .getFosc args)
  | 0x2A => orBadOperand (oneArg Operand.int? .setNodeaddr args)
  | 0x2B => orBadOperand (noArgs .getNodeaddr args)
  | 0x30 => orBadOperand (twoArgs Operand.int? Operand.bool? .check args)
  | 0x31 => orBadOperand (noArgs .poll args)
  | 0x32 => orBadOperand (noArgs .setup args)
  | 0x40 => orBadOperand (oneArg Operand.source? .edge args)
  | _ => .error .badOpcode

/-! ### Frames -/

/-- The node address of a NODE byte whose upper six bits are zero (R78). -/
def nodeOfByte (b : Byte) : NodeAddr := b.setWidth 2

/-- The register address of byte 2 of a frame (R78, R79, R81). -/
def regOfByte (b : Byte) : RegAddr := b.setWidth 7

/-- The frame of a byte list by the fixed bits of the formats W8, R4 and P8; bytes of no format are rejected
[DESIGN CHOICE, log 21]. -/
def decodeFrame : List Byte → Except RefuseReason Instr
  | [b0, b1, b2, b3] =>
    if b0 == syncByte && b1.extractLsb' 2 6 == 0#6 && !b2.msb then
      .ok (.r4 (nodeOfByte b1) (regOfByte b2) b3)
    else .error .badOpcode
  | [b0, b1, b2, b3, b4, b5, b6, b7] =>
    if b0 == syncByte && b1.extractLsb' 2 6 == 0#6 && b2.msb then
      .ok (.w8 (nodeOfByte b1) (regOfByte b2) (joinBytes b3 b4 b5 b6) b7)
    else if b0 == syncByte && b1 == masterByte && !b2.msb then
      .ok (.p8 (regOfByte b2) (joinBytes b3 b4 b5 b6) b7)
    else .error .badOpcode
  | _ => .error .badOpcode

/-- The instruction of an input, or the reason it is refused with. -/
def decode : Input → Except RefuseReason Instr
  | .command code args => decodeCommand code.toNat args
  | .frame bytes => decodeFrame bytes

/-! ### The encoder -/

/-- An integer as it stands on the command port. -/
def intArg (v : Int) : Operand := .num (v : Rat)

/-- The input that presents an instruction: its host-op code and operands (R95), or the bytes of its frame (R78, R79,
R81). -/
def encode : Instr → Input
  | .wreg addr value => .command 0x01#8 [intArg addr, intArg value]
  | .rreg addr => .command 0x02#8 [intArg addr]
  | .rfld f => .command 0x03#8 [.field f]
  | .wfld f v => .command 0x04#8 [.field f, intArg v]
  | .setMstep n => .command 0x10#8 [intArg n]
  | .getMstep => .command 0x11#8 []
  | .setIholddelay raw => .command 0x12#8 [intArg raw]
  | .setIholddelayMs ms => .command 0x13#8 [.num ms]
  | .getIholddelay => .command 0x14#8 []
  | .getIholddelayMs => .command 0x15#8 []
  | .setTpowerdown raw => .command 0x16#8 [intArg raw]
  | .setTpowerdownMs ms => .command 0x17#8 [.num ms]
  | .getTpowerdown => .command 0x18#8 []
  | .getTpowerdownMs => .command 0x19#8 []
  | .setSgthrs v => .command 0x1A#8 [intArg v]
  | .getSgthrs => .command 0x1B#8 []
  | .getSgresult => .command 0x1C#8 []
  | .setTcoolthrs v => .command 0x1D#8 [intArg v]
  | .getTcoolthrs => .command 0x1E#8 []
  | .getVersion => .command 0x1F#8 []
  | .csFwd amps => .command 0x20#8 [.num amps]
  | .csInv scale vsense => .command 0x21#8 [intArg scale, .flag vsense]
  | .setRms amps => .command 0x22#8 [.num amps]
  | .getRms => .command 0x23#8 []
  | .setHoldfrac f => .command 0x24#8 [.num f]
  | .getHoldfrac => .command 0x25#8 []
  | .setRsense r internal => .command 0x26#8 [.num r, .flag internal]
  | .getRsense => .command 0x27#8 []
  | .setFosc f => .command 0x28#8 [.num f]
  | .getFosc => .command 0x29#8 []
  | .setNodeaddr a => .command 0x2A#8 [intArg a]
  | .getNodeaddr => .command 0x2B#8 []
  | .check h v => .command 0x30#8 [intArg h, .flag v]
  | .poll => .command 0x31#8 []
  | .setup => .command 0x32#8 []
  | .edge src => .command 0x40#8 [.source src]
  | .w8 node reg data crc => .frame (w8Body node reg data ++ [crc])
  | .r4 node reg crc => .frame (r4Body node reg ++ [crc])
  | .p8 reg data crc => .frame (p8Body reg data ++ [crc])

/-! ### The words of the opcode table -/

/-- The `n` bytes of the number `w`, the most significant first: the table reads a frame as one number whose byte 0 is the
most significant (the row R4 has its sync byte at bits 31..24; log 25). -/
def bytesOf : Nat → Nat → List Byte
  | 0, _ => []
  | n + 1, w => BitVec.ofNat 8 (w / 256 ^ n) :: bytesOf n w

/-- A FieldSpec of zeros. -/
def zeroField : Operand := .field (.literal { addr := 0, offset := 0, width := 0, signed := false })

/-- The operands of zeros of a host-op code: the table gives operands no bits. -/
def zeroArgs (code : Nat) : List Operand :=
  match code with
  | 0x01 => [.num 0, .num 0]
  | 0x02 | 0x10 | 0x12 | 0x13 | 0x16 | 0x17 | 0x1A | 0x1D | 0x20 | 0x22 | 0x24 | 0x28 | 0x2A => [.num 0]
  | 0x03 => [zeroField]
  | 0x04 => [zeroField, .num 0]
  | 0x21 | 0x26 | 0x30 => [.num 0, .flag false]
  | 0x40 => [.source .diag]
  | _ => []

/-- The input whose bits the opcode table numbers as `w`: eight bits are a host-op code, 32 and 64 bits a frame. -/
def inputOfTableWord (nbits w : Nat) : Option Input :=
  match nbits with
  | 8 => some (.command (BitVec.ofNat 8 w) (zeroArgs (w % 256)))
  | 32 => some (.frame (bytesOf 4 w))
  | 64 => some (.frame (bytesOf 8 w))
  | _ => none

/-- The instruction the decoder reads from an instruction whose bits are `w`, numbered as spec/opcode_table.json numbers
them. -/
def decodeTableWord (nbits w : Nat) : Option Instr :=
  match inputOfTableWord nbits w with
  | some inp => (decode inp).toOption
  | none => none

/-! ### Pseudo-operations and codes -/

/-- RDSTATUS (R98). -/
def pseudoRdstatus : Instr := .rreg 0x6F

/-- SETBIT f (R98). -/
def pseudoSetbit (f : FieldRef) : Instr := .wfld f 1

/-- CLRBIT f (R98). -/
def pseudoClrbit (f : FieldRef) : Instr := .wfld f 0

/-- RDSG (R98). -/
def pseudoRdsg : Instr := .getSgresult

/-- The code of an event (R100). -/
def eventCode : Event → Nat
  | .stalled => 0
  | .diagTriggered => 1
  | .indexTriggered => 2
  | .temperatureNormal => 3
  | .overtemperaturePrewarning => 4
  | .overtemperature => 5
  | .above120 => 6
  | .below120 => 7
  | .above143 => 8
  | .below143 => 9
  | .above150 => 10
  | .below150 => 11
  | .above157 => 12
  | .below157 => 13

/-- The id of a handler (spec/10_state.md R28). -/
def handlerId : Handler → Int
  | .diag => 0
  | .index => 1
  | .nt => 2
  | .otpw => 3
  | .ot => 4
  | .t120 => 5
  | .t143 => 6
  | .t150 => 7
  | .t157 => 8

end Sys2Proof
end

