-- ==== Sys2Proof/Machine/Issue.lean ====
section
/-! DEFINITION. How an input is taken and a suspended operation goes on: the parts of the step that Step.lean puts together
(spec/10_state.md R22, spec/42_edge_detector.md R214). -/

namespace Sys2Proof.Machine

/-- The state with its next input taken from the queue that is in force: `nest` while an operation is suspended at an
emission, else `port`. None where there is nothing to take there or the head of `nest` is no input. -/
def fetch (s : State) : Option (Input × State) :=
  match s.stack with
  | [] =>
    match s.port with
    | [] => none
    | i :: rest => some (i, { s with port := rest })
  | _ :: _ =>
    match s.nest with
    | .input i :: rest => some (i, { s with nest := rest })
    | _ => none

/-- What happens without an input: an idle block keeps its state (spec/60_exceptions.md R275), a suspended operation goes on
when its listeners have returned, and waits where a listener never returns (spec/60_exceptions.md R267). -/
def proceed (s : State) : State :=
  match s.stack with
  | [] => s
  | a :: below =>
    match s.nest with
    | [] => resumeActivation a { s with stack := below }
    | .ret :: rest => resumeActivation a { s with stack := below, nest := rest }
    | _ => s

/-- The state with an input placed where the next step takes its input. -/
def placeInput (s : State) (i : Input) : State :=
  match s.stack with
  | [] => { s with port := i :: s.port }
  | _ :: _ => { s with nest := .input i :: s.nest }

end Sys2Proof.Machine
end

