-- ==== Sys2Proof/Machine/Step.lean ====
section
/-! DEFINITION. The step of the block: the next input is taken, decoded and executed; an input that is no instruction is
refused; without an input the block goes on with what it has in progress, or idles. -/

namespace Sys2Proof.Machine

/-- One step. -/
def step (s : State) : Host.Outcome State Fault Refusal :=
  match fetch s with
  | some (inp, s') =>
    match decode inp with
    | .ok i => exec i s'
    | .error reason => .next (refuse s' none reason)
  | none => .next (proceed s)

/-- The state with the instruction whose table word is `w` placed where `step` takes its next input; a number of bits that
no row of the table has leaves the state as it is. -/
def State.withFetchWord (s : State) (nbits w : Nat) : State :=
  match inputOfTableWord nbits w with
  | some inp => placeInput s inp
  | none => s

end Sys2Proof.Machine
end

