-- ==== Sys2Proof/Safety.lean ====
section
/-! DEFINITION. The terms in which claims about the block speak: the domains of its parameters and configuration, the frames it
may send, the shape of what it has in progress, the invariant of a run, what a read and a write transaction may give, and
when an operation is refused. -/

namespace Sys2Proof.Machine

/-! ### Domains -/

/-- Every entry of a FIELD_TABLE is a well-formed FieldSpec (spec/30_encoding.md R85). -/
def tableOk (t : FieldTable) : Prop := ∀ n : FieldName, fieldSpecOk (fieldOf t n) = true

/-- The parameters that no operation changes lie in their domains (spec/00_scope.md R9). -/
structure ParamsOk (p : Params) : Prop where
  table : tableOk p.fieldTable
  vfsHi : 0 < p.vfsHi
  vfsLo : 0 < p.vfsLo
  rInt : 0 ≤ p.rInt
  tclkDiv : 0 < p.tclkDiv

/-- The construction parameters lie in their domains (spec/70_reset_and_hazards.md R282). -/
structure ConstructionOk (c : Construction) : Prop where
  rsense : 0 < c.rsense
  fosc : 0 < c.fosc
  holdLow : 0 ≤ c.holdFraction
  holdHigh : c.holdFraction ≤ 1
  params : ParamsOk c.params

/-- The configuration fields lie in their domains (spec/10_state.md R23). -/
structure ConfigOk (s : State) : Prop where
  rsense : 0 < s.rsense
  fosc : 0 < s.fosc
  holdLow : 0 ≤ s.holdFraction
  holdHigh : s.holdFraction ≤ 1
  target : ∀ q, s.rmsTarget = some q → 0 ≤ q

/-! ### Encodings -/

/-- The kinds of operand on the command port: an integer for u7, u32, u8, u5, u2, handler id and ℤ, and ℚ, Bool, FieldSpec,
the source of an EDGE (spec/30_encoding.md R96; log 6). -/
inductive OperandKind where
  | integer
  | rational
  | bool
  | fieldSpec
  | source
deriving DecidableEq, Repr

/-- An operand is of its kind. -/
def OperandKind.admits : OperandKind → Operand → Bool
  | .integer, .num q => q.den == 1
  | .rational, .num _ => true
  | .bool, .flag _ => true
  | .fieldSpec, .field _ => true
  | .source, .source _ => true
  | _, _ => false

/-- The operands are as many as the kinds, each of its kind. -/
def admitsAll : List OperandKind → List Operand → Bool
  | [], [] => true
  | k :: ks, a :: args => k.admits a && admitsAll ks args
  | _, _ => false

/-- The operand column of the table of spec/30_encoding.md R95, none for a code that is not listed there. -/
def commandOperands (code : Nat) : Option (List OperandKind) :=
  if code ∈ [0x11, 0x14, 0x15, 0x18, 0x19, 0x1B, 0x1C, 0x1E, 0x1F, 0x23, 0x25, 0x27, 0x29, 0x2B, 0x31, 0x32] then some []
  else if code ∈ [0x02, 0x10, 0x12, 0x16, 0x1A, 0x1D, 0x2A] then some [.integer]
  else if code ∈ [0x13, 0x17, 0x20, 0x22, 0x24, 0x28] then some [.rational]
  else if code = 0x01 then some [.integer, .integer]
  else if code = 0x03 then some [.fieldSpec]
  else if code = 0x04 then some [.fieldSpec, .integer]
  else if code = 0x21 ∨ code = 0x30 then some [.integer, .bool]
  else if code = 0x26 then some [.rational, .bool]
  else if code = 0x40 then some [.source]
  else none

/-- One turn of the inner loop of CRC8 on numbers: `cur` is the byte with the bit in turn lowest (spec/30_encoding.md R82). -/
def crcTurn (crc cur : Nat) : Nat :=
  if (crc / 128 + cur) % 2 = 1 then (2 * crc % 256) ^^^ 0x07 else 2 * crc % 256

/-! ### What is sent and what is in progress -/

/-- A frame the block may send: a W8 or an R4 with its CRC (spec/30_encoding.md R80). -/
def SentFrame (bs : List Byte) : Prop :=
  (∃ node reg v, bs = buildW8 node reg v) ∨ (∃ node reg, bs = buildR4 node reg)

/-- The events of a change of `h` to the input `v`: the table of spec/42_edge_detector.md R196, written out here so that the
claims do not rest on the model's own lists. -/
def changeEvents : Handler → Bool → List Event
  | .diag, true => [.diagTriggered, .stalled]
  | .diag, false => []
  | .index, true => [.indexTriggered]
  | .index, false => []
  | .nt, true => [.temperatureNormal]
  | .nt, false => []
  | .otpw, true => [.overtemperaturePrewarning]
  | .otpw, false => []
  | .ot, true => [.overtemperature]
  | .ot, false => []
  | .t120, true => [.above120]
  | .t120, false => [.below120]
  | .t143, true => [.above143]
  | .t143, false => [.below143]
  | .t150, true => [.above150]
  | .t150, false => [.below150]
  | .t157, true => [.above157]
  | .t157, false => [.below157]

/-- What a suspended operation may look like: some event of its step has been emitted and `pending` is the rest of the
list; a CHECK has the handler and input of its operands and no further handler; a POLL has the handlers that follow in
index order (spec/42_edge_detector.md R193, R207). -/
structure ActivationOk (a : Activation) : Prop where
  pending : ∃ e before, changeEvents a.handler a.input = before ++ e :: a.pending
  check : ∀ h v, a.ctx.emitter = .check h v → handlerOfId h = some a.handler ∧ a.input = v ∧ a.rest = []
  poll : a.ctx.emitter = .poll → (a.handler :: a.rest) <:+ handlerOrder

/-- At most one POLL is in progress (spec/42_edge_detector.md R214). -/
def onePoll (st : List Activation) : Prop := (st.filter fun a => a.ctx.emitter == .poll).length ≤ 1

/-- The invariant of a run. -/
structure Inv (s : State) : Prop where
  config : ConfigOk s
  sent : ∀ bs ∈ s.txLog, SentFrame bs
  activations : ∀ a ∈ s.stack, ActivationOk a
  onePoll : onePoll s.stack

/-! ### Transactions -/

/-- The state after the frames of some transactions, in order: each is in the TX log, each has used up one answer of WIRE,
and the edges that fell inside them are stored (spec/00_scope.md R14, spec/40_transport.md R116, spec/42_edge_detector.md
R200). -/
def afterFrames (s : State) (frames : List (List Byte)) : State :=
  { s with
    txLog := s.txLog ++ frames
    wire := s.wire.drop frames.length
    draws := s.draws + frames.length
    diagFlag := s.diagFlag || ((s.wire.take frames.length).flatMap (·.edges)).contains .diag
    indexFlag := s.indexFlag || ((s.wire.take frames.length).flatMap (·.edges)).contains .index }

/-- The bytes that the next transaction takes for the reply to a read of `reg`: after the four echo bytes, at most eight
(spec/40_transport.md R130). -/
def replyWindow (s : State) (reg : RegAddr) : List Byte :=
  ((lineAnswer s (buildR4 s.node reg)).drop 4).take 8

/-- A read of `reg` is served from the shadow: shadow mode and class W (spec/40_transport.md R126). -/
def ShadowRead (s : State) (reg : RegAddr) : Prop :=
  s.params.readback = .shadow ∧ classOf s.params.accessClass reg = .w

/-- `MemRead(reg, 4)` may give the word `w` with `ok` and the state `t` (spec/40_transport.md R121, R125, R126): from the
shadow without traffic, or by one request on the line, where a well-formed reply gives its word and any other reply gives
some word with `ok = false`. -/
def ReadGives (s : State) (reg : RegAddr) (w : Word) (ok : Bool) (t : State) : Prop :=
  (ShadowRead s reg ∧ w = s.shadow[reg.toNat]'reg.isLt ∧ ok = true ∧ t = s) ∨
  (¬ ShadowRead s reg ∧ ok = replyWellFormed (replyWindow s reg) reg ∧
    (ok = true → w = replyValue (replyWindow s reg)) ∧ t = afterFrames s [buildR4 s.node reg])

/-- The state after `MemWrite(reg, 4, v)` (spec/40_transport.md R118). -/
def afterWrite (s : State) (reg : RegAddr) (v : Word) : State :=
  { afterFrames s [buildW8 s.node reg v] with
    shadow := if s.params.readback = .shadow then s.shadow.set reg.toNat v reg.isLt else s.shadow }

/-- A write of the value `v` to the field `f` may give `ok` and the state `t` (spec/41_field_codec.md R146). -/
def FieldWriteGives (s : State) (f : FieldSpec) (v : Int) (ok : Bool) (t : State) : Prop :=
  (coversRegister f = true ∧ ok = true ∧ t = afterWrite s (fieldAddr f) (toWord v)) ∨
  (coversRegister f = false ∧
    ∃ w r, ReadGives s (fieldAddr f) w ok r ∧ t = afterWrite r (fieldAddr f) (insertField f w v))

/-- The state after some events have been put on the event stream, in order (spec/00_scope.md R14). -/
def afterEvents (s : State) (es : List Event) : State := { s with events := s.events ++ es }

/-- A healthy answer to a read of `reg`: the echo, then the chip's reply with the word `w` (spec/40_transport.md R112). -/
def healthyReply (reg : RegAddr) (w : Word) : WireAnswer := { rx := .reply (buildP8 reg w), edges := [] }

/-- A POLL is in progress (spec/42_edge_detector.md R214). -/
def PollInProgress (s : State) : Prop := ∃ a ∈ s.stack, a.ctx.emitter = .poll

/-- `t` differs from `s` at most in the handler cells, the edge flags, the line (TX log, answers, counter of free values), the
events and the results: what a POLL may write (spec/10_state.md R36). -/
structure SameButPoll (s t : State) : Prop where
  phase : t.phase = s.phase
  node : t.node = s.node
  rsense : t.rsense = s.rsense
  internalRsense : t.internalRsense = s.internalRsense
  holdFraction : t.holdFraction = s.holdFraction
  fosc : t.fosc = s.fosc
  rmsTarget : t.rmsTarget = s.rmsTarget
  irqDiag : t.irqDiag = s.irqDiag
  irqIndex : t.irqIndex = s.irqIndex
  shadow : t.shadow = s.shadow
  params : t.params = s.params
  port : t.port = s.port
  nest : t.nest = s.nest

/-- The edges that fell inside the transactions by which `t` is further than `s` (spec/42_edge_detector.md R200; log 11). -/
def edgesTaken (s t : State) : List EdgeSrc := (s.wire.take (t.txLog.length - s.txLog.length)).flatMap (·.edges)

/-- The reads made over the line between `s` and `t`, each with the state it was made in: their requests in order are all that
was sent, and each has used up one answer of WIRE (spec/40_transport.md R117, R121). -/
structure ReadsMade (s t : State) (reads : List (State × RegAddr)) : Prop where
  sent : t.txLog = s.txLog ++ reads.map fun r => buildR4 s.node r.2
  taken : t.wire = s.wire.drop reads.length
  each : ∀ k r, reads[k]? = some r →
    r.1.node = s.node ∧ r.1.txLog = s.txLog ++ (reads.take k).map (fun r => buildR4 s.node r.2) ∧ r.1.wire = s.wire.drop k

/-- The `ok` bit of a read over the line: its reply is well-formed for the register asked for (spec/40_transport.md R121,
R124). -/
def readOk (r : State × RegAddr) : Bool := replyWellFormed (replyWindow r.1 r.2) r.2

/-! ### The run of a poll -/

/-- The most reads that the input of a handler takes (spec/42_edge_detector.md R203 to R206). -/
def inputReads : Handler → Nat
  | .index => 0
  | .nt => 2
  | _ => 1

/-- The most reads that the inputs of some handlers take. -/
def totalReads (hs : List Handler) : Nat := (hs.map inputReads).sum

/-- The most reads that the suspended operations have still to make. -/
def readsLeft (s : State) : Nat := (s.stack.map fun a => totalReads a.rest).sum

/-- A field of DRV_STATUS in a poll may have the value `v` with `ok`, and leave the snapshot and the state: by a read of its
own, or from the one word of this poll, which the first field reads (spec/42_edge_detector.md R205, R208). -/
def StatusGives (n : FieldName) (snapshot : Option Word) (s : State) (v : Int) (ok : Bool) (snapshot' : Option Word)
    (t : State) : Prop :=
  match s.params.pollSnapshot with
  | .perField => snapshot' = snapshot ∧ ∃ w, ReadGives s (fieldAddr (field s n)) w ok t ∧ v = extractField (field s n) w
  | .single => ∃ w, snapshot' = some w ∧ v = extractField (field s n) w ∧
      ((snapshot = some w ∧ ok = true ∧ t = s) ∨ (snapshot = none ∧ ReadGives s regDrvStatus w ok t))

/-- The input of a handler in a poll may be `v` with `ok`, and leave the snapshot and the state (spec/42_edge_detector.md R203
to R208): a flag taken, a field read, a free pin level, the constant, or the temperature-normal condition of two fields. -/
def InputGives (h : Handler) (snapshot : Option Word) (s : State) (v ok : Bool) (snapshot' : Option Word) (t : State) :
    Prop :=
  match h with
  | .diag => snapshot' = snapshot ∧
      if s.irqDiag = true then v = s.diagFlag ∧ ok = true ∧ t = { s with diagFlag := false }
      else
        match s.params.diagPollSource with
        | .register => ∃ w, ReadGives s (fieldAddr (field s .diag)) w ok t ∧
            v = decide (extractField (field s .diag) w ≠ 0)
        | .pin => ok = true ∧ ∃ k n, v = Config.diagPin k ∧ t = { s with draws := n }
  | .index => snapshot' = snapshot ∧ ok = true ∧
      if s.irqIndex = true then v = s.indexFlag ∧ t = { s with indexFlag := false }
      else
        match s.params.indexPollSource with
        | .constFalse => v = false ∧ t = s
        | .pin => ∃ k n, v = Config.indexPin k ∧ t = { s with draws := n }
  | .nt => ∃ otpw ok₁ middle u ot ok₂, StatusGives .otpw snapshot s otpw ok₁ middle u ∧
      StatusGives .ot middle u ot ok₂ snapshot' t ∧ v = decide (otpw = 0 ∧ ot = 0) ∧ ok = (ok₁ && ok₂)
  | .otpw => ∃ x, StatusGives .otpw snapshot s x ok snapshot' t ∧ v = decide (x ≠ 0)
  | .ot => ∃ x, StatusGives .ot snapshot s x ok snapshot' t ∧ v = decide (x ≠ 0)
  | .t120 => ∃ x, StatusGives .t120 snapshot s x ok snapshot' t ∧ v = decide (x ≠ 0)
  | .t143 => ∃ x, StatusGives .t143 snapshot s x ok snapshot' t ∧ v = decide (x ≠ 0)
  | .t150 => ∃ x, StatusGives .t150 snapshot s x ok snapshot' t ∧ v = decide (x ≠ 0)
  | .t157 => ∃ x, StatusGives .t157 snapshot s x ok snapshot' t ∧ v = decide (x ≠ 0)

/-- The events of the step of `h` with the input `v` (spec/42_edge_detector.md R193). -/
def changeOn (s : State) (h : Handler) (v : Bool) : List Event := if v = s.prev.get h then [] else changeEvents h v

/-- The state after the whole step of `h` with the input `v` (spec/42_edge_detector.md R193). -/
def afterStep (s : State) (h : Handler) (v : Bool) : State :=
  { s with prev := s.prev.set h v, events := s.events ++ changeOn s h v }

/-- A poll that has run no handler yet. -/
def pollStart : EmitterCtx := { emitter := .poll, ok := true, snapshot := none, events := [] }

/-- A poll after one more input: its `ok`, the snapshot, the events of its step (spec/42_edge_detector.md R207, R210). -/
def afterInput (ctx : EmitterCtx) (ok : Bool) (snapshot : Option Word) (es : List Event) : EmitterCtx :=
  { ctx with ok := ctx.ok && ok, snapshot := snapshot, events := ctx.events ++ es }

/-- The handlers `hs` of the poll `ctx` may run from `s` to their end and leave the poll `ctx'` and the state `t`: for each in
order its input is acquired and its whole step made (spec/42_edge_detector.md R207, R208). -/
def RunGives : List Handler → EmitterCtx → State → EmitterCtx → State → Prop
  | [], ctx, s, ctx', t => ctx' = ctx ∧ t = s
  | h :: rest, ctx, s, ctx', t => ∃ v ok snapshot u, InputGives h ctx.snapshot s v ok snapshot u ∧
      RunGives rest (afterInput ctx ok snapshot (changeOn u h v)) (afterStep u h v) ctx' t

/-- The end of a poll: its events and the AND of the `ok` bits of its reads are its result (spec/42_edge_detector.md R207,
R210). -/
def pollEnds (ctx : EmitterCtx) (s : State) : State := complete s .poll (.events ctx.events) (some ctx.ok) none

/-- A poll with the handlers `hs` left may go on from `s` to `t` while listeners are pending: it ends without an event, or the
handlers before some `h` make no event and `h` has acquired its input and emitted its first event, its cell still old
(spec/42_edge_detector.md R193, R207, R214). -/
def PollGoesOn (hs : List Handler) (ctx : EmitterCtx) (s t : State) : Prop :=
  (∃ ctx' u, RunGives hs ctx s ctx' u ∧ u.events = s.events ∧ t = pollEnds ctx' u) ∨
  (∃ before h after ctx₁ s₁ v ok snapshot u e left, hs = before ++ h :: after ∧ RunGives before ctx s ctx₁ s₁ ∧
    s₁.events = s.events ∧ InputGives h ctx₁.snapshot s₁ v ok snapshot u ∧ changeOn u h v = e :: left ∧
    t =
      { u with
        events := u.events ++ [e]
        stack :=
          { ctx := afterInput ctx₁ ok snapshot (changeOn u h v), handler := h, input := v, pending := left,
            rest := after } :: u.stack })

/-! ### Currents as reals -/

/-- `Q(I, V) = round(32√2 · I · (rsense + R_INT) / V) - 1` of a real current (spec/43_current_quantizer.md R227) is the
integer `k`. -/
def RealQuantized (s : State) (amps : ℝ) (volts : Rat) (k : Int) : Prop :=
  k = round (32 * √2 * amps * ((s.rsense : ℝ) + (s.params.rInt : ℝ)) / (volts : ℝ)) - 1

/-- `CSFwd(I)` of a real current gives the scale and the range (spec/43_current_quantizer.md R230). -/
def RealForward (s : State) (amps : ℝ) (scale : Int) (vsense : Bool) : Prop :=
  ∃ s0, RealQuantized s amps s.params.vfsHi s0 ∧
    (s0 < 16 → vsense = true ∧ ∃ s1, RealQuantized s amps s.params.vfsLo s1 ∧ scale = min 31 (max 0 s1)) ∧
    (16 ≤ s0 → vsense = false ∧ scale = min 31 (max 0 s0))

/-- The constants of spec/43_current_quantizer.md R226. -/
def DefaultVoltages (p : Params) : Prop := p.vfsHi = 325 / 1000 ∧ p.vfsLo = 180 / 1000 ∧ 0 ≤ p.rInt

/-! ### Refusals -/

/-- The reason an operation is refused with, none where it is admitted: the first that applies in the order of
spec/60_exceptions.md R262, by the conditions of R261 (for the frames W8 and R4 those of log 8). -/
def refusalOf (i : Instr) (s : State) : Option RefuseReason :=
  match i with
  | .wreg addr value => if 0 ≤ addr ∧ addr < 128 ∧ 0 ≤ value ∧ value < 4294967296 then none else some .badOperand
  | .rreg addr => if 0 ≤ addr ∧ addr < 128 then none else some .badOperand
  | .setSgthrs v => if 0 ≤ v ∧ v ≤ 255 then none else some .badOperand
  | .csInv scale _ => if 0 ≤ scale ∧ scale ≤ 31 then none else some .badOperand
  | .check h _ => if 0 ≤ h ∧ h ≤ 8 then none else some .badOperand
  | .rfld f => if fieldSpecOk (resolveField s.params.fieldTable f) = true then none else some .badFieldSpec
  | .wfld f _ => if fieldSpecOk (resolveField s.params.fieldTable f) = true then none else some .badFieldSpec
  | .poll => if (s.stack.any fun a => a.ctx.emitter == .poll) = true then some .nested else none
  | .setup => if (s.stack.any fun a => a.ctx.emitter == .poll) = true then some .nested else none
  | .setNodeaddr a =>
    if ¬ (0 ≤ a ∧ a ≤ 3) then some .badOperand else if s.phase = .running then some .nodeAddrFixed else none
  | .csFwd amps => if amps < 0 then some .domain else none
  | .setRms amps => if amps < 0 then some .domain else none
  | .setIholddelayMs ms => if ms < 0 then some .domain else none
  | .setTpowerdownMs ms => if ms < 0 then some .domain else none
  | .setIholddelay raw => if raw < 0 then some .domain else none
  | .setTpowerdown raw => if raw < 0 then some .domain else none
  | .setTcoolthrs v => if v < 0 then some .domain else none
  | .setFosc f => if f ≤ 0 then some .domain else none
  | .setRsense r _ => if r ≤ 0 then some .domain else none
  | .setHoldfrac f => if f < 0 ∨ 1 < f then some .domain else none
  | .w8 node reg data crc => if node = s.node ∧ crc = crc8 (w8Body node reg data) then none else some .badOperand
  | .r4 node reg crc => if node = s.node ∧ crc = crc8 (r4Body node reg) then none else some .badOperand
  | .setMstep _ => none
  | .getMstep => none
  | .getIholddelay => none
  | .getIholddelayMs => none
  | .getTpowerdown => none
  | .getTpowerdownMs => none
  | .getSgthrs => none
  | .getSgresult => none
  | .getTcoolthrs => none
  | .getVersion => none
  | .getRms => none
  | .getHoldfrac => none
  | .getRsense => none
  | .getFosc => none
  | .getNodeaddr => none
  | .edge _ => none
  | .p8 _ _ _ => none

end Sys2Proof.Machine
end

