-- ==== Sys2Proof/Certificates/Slice0/Obligations.lean ====
section
/-! DEFINITION. The statements for the provers. Each cites in its docstring the rules it rests on; where it rests on a choice
of the model it names the log entry. -/

open Sys2Proof Sys2Proof.Machine

/-! ### Encodings -/

/-- Decoding the input that presents an instruction gives the instruction back, with every operand at every value
(spec/30_encoding.md R78, R79, R81, R95, R96; the form of the operands is the model's choice, log 6). -/
def Obligations.DecodeInvertsEncode : Prop := ∀ i : Instr, decode (encode i) = .ok i

/-- An input that decodes to an instruction is the one that presents it, so no input has two readings and no bit of a frame
is dropped (spec/30_encoding.md R78, R79, R81, R95; log 6). -/
def Obligations.EncodeInvertsDecode : Prop := ∀ (inp : Input) (i : Instr), decode inp = .ok i → encode i = inp

/-- A few words decode to the instructions they stand for: the frames are written out from the spec's encodings
(spec/30_encoding.md R78, R79, R81, spec/95_test_vectors.md 3.2 to 3.4), byte 0 most significant by the opcode table's
numbering (log 25); a code of R95 given without operands stands for the instruction with its operands zero (log 6). -/
def Obligations.WrittenWordsDecode : Prop :=
  decodeTableWord 8 0x02 = some (.rreg 0) ∧ decodeTableWord 8 0x31 = some .poll ∧
  decodeTableWord 8 0x2B = some .getNodeaddr ∧ decodeTableWord 8 0x40 = some (.edge .diag) ∧
  decodeTableWord 8 0x05 = none ∧
  decodeTableWord 64 0x0503EC1002005380 = some (.w8 3#2 0x6C#7 0x10020053#32 0x80#8) ∧
  decodeTableWord 32 0x05006F84 = some (.r4 0#2 0x6F#7 0x84#8) ∧
  decodeTableWord 64 0x05FF6F00000101F9 = some (.p8 0x6F#7 0x101#32 0xF9#8)

/-- An input that is no instruction is refused with its reason and changes nothing else, whether HOST presents it or a listener
of a suspended operation. The reason is BAD_OPCODE for a code that the table of host operations does not list, the reserved
codes, whatever the operands. It is BAD_OPERAND for a listed code whose operands are not, in number and kind, those of the
table: a flag that is no Bool, an EDGE source that is none, a number that is no integer where the type is one. With operands
of their kinds a listed code is an instruction (spec/30_encoding.md R90, R95, R96, R99, spec/60_exceptions.md R260, R261).
That the entry in the result log names no operation, and that a wrong number of operands is BAD_OPERAND, is the model's choice
(log 6); so are BAD_OPCODE for bytes of no frame (log 21) and the queues (log 7, 16). -/
def Obligations.InputsThatAreNoInstructionAreRefused : Prop :=
  (∀ (s : State) (inp : Input) (r : RefuseReason), decode inp = .error r →
    (∀ rest, s.stack = [] → s.port = inp :: rest →
      step s = .next { s with port := rest, results := s.results ++ [{ op := none, result := .refused r }] }) ∧
    (∀ rest, s.stack ≠ [] → s.nest = .input inp :: rest →
      step s = .next { s with nest := rest, results := s.results ++ [{ op := none, result := .refused r }] })) ∧
  (∀ (code : Byte) (args : List Operand),
    (code.toNat = 0 ∨ (0x05 ≤ code.toNat ∧ code.toNat ≤ 0x0F) ∨ (0x2C ≤ code.toNat ∧ code.toNat ≤ 0x2F) ∨
      (0x33 ≤ code.toNat ∧ code.toNat ≤ 0x3F) ∨ 0x41 ≤ code.toNat) →
    decode (.command code args) = .error .badOpcode) ∧
  (∀ (code : Byte) (args : List Operand),
    (commandOperands code.toNat = none → decode (.command code args) = .error .badOpcode) ∧
    (∀ kinds, commandOperands code.toNat = some kinds →
      (admitsAll kinds args = false → decode (.command code args) = .error .badOperand) ∧
      (admitsAll kinds args = true → ∃ i, decode (.command code args) = .ok i))) ∧
  (∀ (bytes : List Byte) (r : RefuseReason), decode (.frame bytes) = .error r → r = .badOpcode)

/-- A reply is well-formed for an address exactly when it is the frame P8 of some word for that address, and its value is
that word (spec/40_transport.md R123, R124, spec/30_encoding.md R81). The CRC that ends a frame is CRC8: 0 for no bytes, and
for each further byte eight turns of the loop of R82, lowest bit first; it has the values of R83, and frames and replies
written out with their CRC are those that are built and accepted, and no reply with another CRC is (the vectors T1 and T3 of
spec/95_test_vectors.md). The algorithm is marked by the spec as general knowledge of the chip (log 24). -/
def Obligations.WellFormedRepliesAreTheP8Frames : Prop :=
  (∀ (r : List Byte) (reg : RegAddr), replyWellFormed r reg = true ↔ ∃ v, r = buildP8 reg v) ∧
  (∀ (reg : RegAddr) (v : Word), replyValue (buildP8 reg v) = v) ∧
  crc8 [] = 0#8 ∧
  (∀ (bs : List Byte) (b : Byte),
    (crc8 (bs ++ [b])).toNat = (List.range 8).foldl (fun crc k => crcTurn crc (b.toNat / 2 ^ k)) (crc8 bs).toNat) ∧
  (crc8 [0x05#8, 0x00#8, 0x00#8] = 0x48#8 ∧ crc8 [0x05#8, 0x00#8, 0x6F#8] = 0x84#8 ∧
    crc8 [0x05#8, 0x00#8, 0x90#8, 0x00#8, 0x01#8, 0x1F#8, 0x10#8] = 0xDF#8 ∧
    crc8 [0x05#8, 0xFF#8, 0x6F#8, 0x00#8, 0x00#8, 0x00#8, 0x00#8] = 0xC6#8 ∧
    crc8 [0x00#8] = 0x00#8 ∧ crc8 [0x01#8] = 0x89#8 ∧ crc8 [0x80#8] = 0x07#8 ∧ crc8 [0xFF#8] = 0xF3#8) ∧
  buildR4 0#2 0x6F#7 = [0x05#8, 0x00#8, 0x6F#8, 0x84#8] ∧
  buildW8 0#2 0x10#7 0x00011F10#32 = [0x05#8, 0x00#8, 0x90#8, 0x00#8, 0x01#8, 0x1F#8, 0x10#8, 0xDF#8] ∧
  buildP8 0x6F#7 0x101#32 = [0x05#8, 0xFF#8, 0x6F#8, 0x00#8, 0x00#8, 0x01#8, 0x01#8, 0xF9#8] ∧
  replyWellFormed [0x05#8, 0xFF#8, 0x6F#8, 0x00#8, 0x00#8, 0x01#8, 0x01#8, 0xF9#8] 0x6F#7 = true ∧
  replyWellFormed [0x05#8, 0xFF#8, 0x6F#8, 0x00#8, 0x00#8, 0x01#8, 0x01#8, 0xF8#8] 0x6F#7 = false

/-! ### FRM -/

/-- WREG of a 7-bit address and a 32-bit word transmits one write frame and, in shadow mode, stores the word in the shadow;
it returns nothing and changes nothing else (spec/40_transport.md R118, R119). -/
def Obligations.WregTransmitsOneWriteFrame : Prop :=
  ∀ (s : State) (reg : RegAddr) (v : Word),
    exec (.wreg reg.toNat v.toNat) s =
      .next
        { afterFrames s [buildW8 s.node reg v] with
          shadow := if s.params.readback = .shadow then s.shadow.set reg.toNat v reg.isLt else s.shadow
          results := s.results ++ [{ op := some (.wreg reg.toNat v.toNat), result := .completed .none none none }] }

/-- RREG of a 7-bit address gives what one read transaction gives: the word of a well-formed reply with ok = true, some word
with ok = false for any other reply, or the shadow's word without traffic (spec/40_transport.md R121, R122, R125, R126). -/
def Obligations.RregReturnsWhatOneReadGives : Prop :=
  ∀ (s : State) (reg : RegAddr), ∃ w ok t, ReadGives s reg w ok t ∧
    exec (.rreg reg.toNat) s = .next (complete t (.rreg reg.toNat) (.word w) (some ok) none)

/-- A W8 and an R4 of this block's node with their CRC, presented at FRM's lower interface, each run the one transaction
they stand for (spec/30_encoding.md R78, R79, spec/40_transport.md R128; that they can be presented is the model's choice,
log 8). -/
def Obligations.LowerInterfaceFramesRunOneTransaction : Prop :=
  (∀ (s : State) (reg : RegAddr) (v : Word),
    exec (.w8 s.node reg v (crc8 (w8Body s.node reg v))) s =
      .next (complete (afterWrite s reg v) (.w8 s.node reg v (crc8 (w8Body s.node reg v))) .none none none)) ∧
  (∀ (s : State) (reg : RegAddr), ∃ w,
    (replyWellFormed (replyWindow s reg) reg = true → w = replyValue (replyWindow s reg)) ∧
    exec (.r4 s.node reg (crc8 (r4Body s.node reg))) s =
      .next (complete (afterFrames s [buildR4 s.node reg]) (.r4 s.node reg (crc8 (r4Body s.node reg))) (.word w)
        (some (replyWellFormed (replyWindow s reg) reg)) none))

/-- A P8 among the inputs changes nothing but the pending answers of WIRE, whatever its CRC. Where no other answer is pending,
the next read of its register over the line returns its word with ok = true if its CRC is that of its bytes, and with
ok = false otherwise (spec/30_encoding.md R81, R97, spec/40_transport.md R124, R125; the role of P8 as an input is the
model's choice, log 9). -/
def Obligations.ReplyFrameAnswersTheNextRead : Prop :=
  (∀ (s : State) (reg : RegAddr) (v : Word) (crc : Byte),
    exec (.p8 reg v crc) s =
      .next { s with wire := s.wire ++ [{ rx := .reply (p8Body reg v ++ [crc]), edges := [] }] }) ∧
  (∀ (s : State) (reg : RegAddr) (v : Word) (crc : Byte), s.wire = [] → ¬ ShadowRead s reg →
    ∃ t w, exec (.p8 reg v crc) s = .next t ∧ (crc = crc8 (p8Body reg v) → w = v) ∧
      exec (.rreg reg.toNat) t =
        .next (complete (afterFrames t [buildR4 s.node reg]) (.rreg reg.toNat) (.word w)
          (some (decide (crc = crc8 (p8Body reg v)))) none))

/-- A read over the line sees of the answer only the reply window: the four bytes that come back first are dropped without
comparison, at most eight are taken, the rest is flushed; so two answers with the same window and the same edges end the
read in the same state (spec/40_transport.md R114, R116, R130). -/
def Obligations.OnlyTheReplyWindowMatters : Prop :=
  ∀ (s : State) (reg : RegAddr) (rx₁ rx₂ : List Byte) (es : List EdgeSrc) (rest : List WireAnswer), ¬ ShadowRead s reg →
    (rx₁.drop 4).take 8 = (rx₂.drop 4).take 8 →
    exec (.rreg reg.toNat) { s with wire := { rx := .bytes rx₁, edges := es } :: rest } =
      exec (.rreg reg.toNat) { s with wire := { rx := .bytes rx₂, edges := es } :: rest }

/-- Nothing that comes back on the line changes a write: the operations that only write, where they are admitted, end in the
same state for any two answers with the same edges: WREG, SET_SGTHRS and WFLD of a field that covers its register
(spec/60_exceptions.md R265, R266, spec/20_memory.md R59), and a W8 of this block's node with its CRC, an input of FRM's
lower interface by the model's choice (log 8). -/
def Obligations.WritesIgnoreTheAnswer : Prop :=
  ∀ (s : State) (i : Instr) (rx₁ rx₂ : WireRx) (es : List EdgeSrc) (rest : List WireAnswer),
    ((∃ (reg : RegAddr) (v : Word), i = .wreg reg.toNat v.toNat) ∨ (∃ v : Int, 0 ≤ v ∧ v ≤ 255 ∧ i = .setSgthrs v) ∨
      (∃ (f : FieldRef) (v : Int), fieldSpecOk (resolveField s.params.fieldTable f) = true ∧
        coversRegister (resolveField s.params.fieldTable f) = true ∧ i = .wfld f v) ∨
      (∃ reg v, i = .w8 s.node reg v (crc8 (w8Body s.node reg v)))) →
    exec i { s with wire := { rx := rx₁, edges := es } :: rest } =
      exec i { s with wire := { rx := rx₂, edges := es } :: rest }

/-- In shadow mode a word written to a class-W register is read back at once, with ok = true and no frame on the line
(spec/40_transport.md R126, spec/10_state.md R32). -/
def Obligations.ShadowReadsBackWhatWasWritten : Prop :=
  ∀ (s : State) (reg : RegAddr) (v : Word), ShadowRead s reg →
    ∃ t, exec (.wreg reg.toNat v.toNat) s = .next t ∧
      exec (.rreg reg.toNat) t = .next (complete t (.rreg reg.toNat) (.word v) (some true) none)

/-! ### FC: the codec -/

/-- Extraction takes the field's bits as an unsigned number, or as two's complement for a signed field, and the result lies
in the field's range (spec/41_field_codec.md R142). -/
def Obligations.ExtractReadsTheFieldsBits : Prop :=
  ∀ (f : FieldSpec) (w : Word), fieldSpecOk f = true →
    (f.signed = false →
      extractField f w = (w.extractLsb' f.offset.toNat f.width.toNat).toNat ∧
      0 ≤ extractField f w ∧ extractField f w < 2 ^ f.width.toNat) ∧
    (f.signed = true →
      extractField f w = (w.extractLsb' f.offset.toNat f.width.toNat).toInt ∧
      -(2 ^ (f.width.toNat - 1)) ≤ extractField f w ∧ extractField f w < 2 ^ (f.width.toNat - 1))

/-- Insertion gives the field the value modulo two to its width, whatever its sign or size, and leaves every other bit of
the word as it was (spec/41_field_codec.md R143). -/
def Obligations.InsertReplacesOnlyTheFieldsBits : Prop :=
  ∀ (f : FieldSpec) (w : Word) (v : Int) (k : Nat), fieldSpecOk f = true → k < 32 →
    (insertField f w v).getLsbD k =
      if f.offset.toNat ≤ k ∧ k < f.offset.toNat + f.width.toNat
      then (v % 2 ^ f.width.toNat).toNat.testBit (k - f.offset.toNat) else w.getLsbD k

/-- What is inserted is read back as Norm(f, v): the value modulo two to the width, sign-extended for a signed field
(spec/41_field_codec.md R147, R142, R143). -/
def Obligations.ExtractAfterInsertIsNorm : Prop :=
  ∀ (f : FieldSpec) (w : Word) (v : Int), fieldSpecOk f = true →
    extractField f (insertField f w v) = normField f v

/-- RFLD of a well-formed FieldSpec makes one read of its register and returns the extracted field with the read's ok
(spec/41_field_codec.md R144). -/
def Obligations.RfldReturnsTheFieldRead : Prop :=
  ∀ (s : State) (f : FieldRef), fieldSpecOk (resolveField s.params.fieldTable f) = true →
    ∃ w ok t, ReadGives s (fieldAddr (resolveField s.params.fieldTable f)) w ok t ∧
      exec (.rfld f) s =
        .next (complete t (.rfld f) (.int (extractField (resolveField s.params.fieldTable f) w)) (some ok) none)

/-- WFLD of a well-formed FieldSpec makes one write where the field covers its register, else a read and then a write of the
word read with the field replaced, also where the read was malformed; its ok is the read's (spec/41_field_codec.md R146,
spec/70_reset_and_hazards.md R293). -/
def Obligations.WfldWritesTheFieldByReadModifyWrite : Prop :=
  ∀ (s : State) (f : FieldRef) (v : Int), fieldSpecOk (resolveField s.params.fieldTable f) = true →
    ∃ ok t, FieldWriteGives s (resolveField s.params.fieldTable f) v ok t ∧
      exec (.wfld f v) s = .next (complete t (.wfld f v) .none (some ok) none)

/-- On a chip that stores the word written and answers with it, WFLD and then RFLD of a field returns Norm(f, v) with
ok = true, by a read, a write and a read where the field leaves a part of its register, by a write and a read where it covers
it (spec/41_field_codec.md R147, R148, spec/95_test_vectors.md section 2.3). Where the reads are served from the shadow it
does so by one write and no read on the line (spec/40_transport.md R126). -/
def Obligations.StoringChipRoundTrip : Prop :=
  ∀ (s : State) (f : FieldSpec) (v : Int), fieldSpecOk f = true →
    ∃ t u, exec (.wfld (.literal f) v) s = .next t ∧ exec (.rfld (.literal f)) t = .next u ∧
      (∀ w a rest, ¬ ShadowRead s (fieldAddr f) → coversRegister f = false →
        s.wire = healthyReply (fieldAddr f) w :: a :: healthyReply (fieldAddr f) (insertField f w v) :: rest →
        u.results = s.results ++
          [{ op := some (.wfld (.literal f) v), result := .completed .none (some true) none },
           { op := some (.rfld (.literal f)), result := .completed (.int (normField f v)) (some true) none }] ∧
        u.txLog = s.txLog ++ [buildR4 s.node (fieldAddr f), buildW8 s.node (fieldAddr f) (insertField f w v),
          buildR4 s.node (fieldAddr f)]) ∧
      (∀ a rest, ¬ ShadowRead s (fieldAddr f) → coversRegister f = true →
        s.wire = a :: healthyReply (fieldAddr f) (BitVec.ofInt 32 v) :: rest →
        u.results = s.results ++
          [{ op := some (.wfld (.literal f) v), result := .completed .none (some true) none },
           { op := some (.rfld (.literal f)), result := .completed (.int (normField f v)) (some true) none }] ∧
        u.txLog = s.txLog ++ [buildW8 s.node (fieldAddr f) (BitVec.ofInt 32 v), buildR4 s.node (fieldAddr f)]) ∧
      (ShadowRead s (fieldAddr f) →
        u.results = s.results ++
          [{ op := some (.wfld (.literal f) v), result := .completed .none (some true) none },
           { op := some (.rfld (.literal f)), result := .completed (.int (normField f v)) (some true) none }] ∧
        ∃ w, u.txLog = s.txLog ++ [buildW8 s.node (fieldAddr f) w])

/-! ### FC: configuration of the chip -/

/-- SET_MSTEP of a power of two 2^k in MSTEPS writes 8 - k to MRES; every other request sends nothing, changes nothing and
reports ok (spec/41_field_codec.md R149, R150). -/
def Obligations.SetMstepWritesItsCodeOrNothing : Prop :=
  ∀ s : State,
    (∀ k : Nat, k ≤ 8 → ∃ ok t, FieldWriteGives s (field s .mres) (8 - k) ok t ∧
      exec (.setMstep (2 ^ k)) s = .next (complete t (.setMstep (2 ^ k)) .none (some ok) none)) ∧
    (∀ n : Int, (∀ k : Nat, k ≤ 8 → n ≠ 2 ^ k) →
      exec (.setMstep n) s = .next (complete s (.setMstep n) .none (some true) none))

/-- GET_MSTEP makes one read of MRES and returns 256 divided by two to the code for the codes 0 to 8, and some integer for
any other (spec/41_field_codec.md R151, R152). -/
def Obligations.GetMstepReturnsTheResolution : Prop :=
  ∀ s : State, ∃ w ok t n d, ReadGives s (fieldAddr (field s .mres)) w ok t ∧
    (∀ k : Nat, k ≤ 8 → extractField (field s .mres) w = k → n = 2 ^ (8 - k)) ∧
    exec .getMstep s = .next (complete { t with draws := d } .getMstep (.int n) (some ok) none)

/-- The hold-delay setters clamp the factor at 15 with a warning and write it to IHOLDDELAY; the millisecond setter converts
first (spec/41_field_codec.md R158 to R161). -/
def Obligations.HoldDelaySettersClampAt15 : Prop :=
  ∀ s : State,
    (∀ raw : Int, 0 ≤ raw → ∃ ok t, FieldWriteGives s (field s .iholddelay) (min raw 15) ok t ∧
      exec (.setIholddelay raw) s =
        .next (complete t (.setIholddelay raw) .none (some ok) (if raw > 15 then some .holddelayClamped else none))) ∧
    (∀ ms : Rat, 0 ≤ ms → ∃ ok t, FieldWriteGives s (field s .iholddelay) (min (msToRaw s ms) 15) ok t ∧
      exec (.setIholddelayMs ms) s =
        .next (complete t (.setIholddelayMs ms) .none (some ok)
          (if msToRaw s ms > 15 then some .holddelayClamped else none)))

/-- The power-down setters clamp the factor at 255 with a warning and write it to TPOWERDOWN; the millisecond setter converts
first (spec/41_field_codec.md R164 to R167). -/
def Obligations.PowerDownSettersClampAt255 : Prop :=
  ∀ s : State,
    (∀ raw : Int, 0 ≤ raw → ∃ ok t, FieldWriteGives s (field s .tpowerdown) (min raw 255) ok t ∧
      exec (.setTpowerdown raw) s =
        .next (complete t (.setTpowerdown raw) .none (some ok) (if raw > 255 then some .tpowerdownClamped else none))) ∧
    (∀ ms : Rat, 0 ≤ ms → ∃ ok t, FieldWriteGives s (field s .tpowerdown) (min (msToRaw s ms) 255) ok t ∧
      exec (.setTpowerdownMs ms) s =
        .next (complete t (.setTpowerdownMs ms) .none (some ok)
          (if msToRaw s ms > 255 then some .tpowerdownClamped else none)))

/-- The four delay getters make one read of their field and return the factor, or the exact time it stands for
(spec/41_field_codec.md R156, R162, R163, R168, R169). -/
def Obligations.DelayGettersReturnTheFactor : Prop :=
  ∀ s : State,
    (∃ w ok t, ReadGives s (fieldAddr (field s .iholddelay)) w ok t ∧
      exec .getIholddelay s =
        .next (complete t .getIholddelay (.int (extractField (field s .iholddelay) w)) (some ok) none)) ∧
    (∃ w ok t, ReadGives s (fieldAddr (field s .iholddelay)) w ok t ∧
      exec .getIholddelayMs s =
        .next (complete t .getIholddelayMs
          (.rat ((extractField (field s .iholddelay) w : Rat) * s.params.tclkDiv * 1000 / s.fosc)) (some ok) none)) ∧
    (∃ w ok t, ReadGives s (fieldAddr (field s .tpowerdown)) w ok t ∧
      exec .getTpowerdown s =
        .next (complete t .getTpowerdown (.int (extractField (field s .tpowerdown) w)) (some ok) none)) ∧
    (∃ w ok t, ReadGives s (fieldAddr (field s .tpowerdown)) w ok t ∧
      exec .getTpowerdownMs s =
        .next (complete t .getTpowerdownMs
          (.rat ((extractField (field s .tpowerdown) w : Rat) * s.params.tclkDiv * 1000 / s.fosc)) (some ok) none))

/-- The round trip through milliseconds loses less than one raw unit with truncation, and with rounding to nearest at most half
a unit, an exact half being rounded up (spec/41_field_codec.md R155 to R157). -/
def Obligations.MillisecondRoundTrip : Prop :=
  ∀ (s : State) (ms : Rat), 0 ≤ ms → 0 < s.fosc → 0 < s.params.tclkDiv →
    (s.params.msRounding = .trunc →
      rawToMs s (msToRaw s ms) ≤ ms ∧ ms < rawToMs s (msToRaw s ms) + s.params.tclkDiv * 1000 / s.fosc) ∧
    (s.params.msRounding = .nearest →
      |rawToMs s (msToRaw s ms) - ms| ≤ s.params.tclkDiv * 1000 / s.fosc / 2 ∧
      (|rawToMs s (msToRaw s ms) - ms| = s.params.tclkDiv * 1000 / s.fosc / 2 → ms < rawToMs s (msToRaw s ms)))

/-- SET_SGTHRS writes its 8-bit value as a whole word to SGTHRS without a read, and GET_SGTHRS and GET_SGRESULT return the
whole word of one read (spec/41_field_codec.md R171 to R173). -/
def Obligations.StallRegistersAreReachedWhole : Prop :=
  ∀ s : State,
    (∀ v : Int, 0 ≤ v → v ≤ 255 →
      exec (.setSgthrs v) s =
        .next (complete (afterWrite s 0x40#7 (BitVec.ofInt 32 v)) (.setSgthrs v) .none none none)) ∧
    (∃ w ok t, ReadGives s 0x40#7 w ok t ∧
      exec .getSgthrs s = .next (complete t .getSgthrs (.word w) (some ok) none)) ∧
    (∃ w ok t, ReadGives s 0x41#7 w ok t ∧
      exec .getSgresult s = .next (complete t .getSgresult (.word w) (some ok) none))

/-- SET_TCOOLTHRS writes its value to the field TCOOLTHRS with no clamp and no warning; GET_TCOOLTHRS and GET_VERSION return
their field of one read, not judged (spec/41_field_codec.md R174 to R178). -/
def Obligations.SpeedBoundAndVersionFields : Prop :=
  ∀ s : State,
    (∀ v : Int, 0 ≤ v → ∃ ok t, FieldWriteGives s (field s .tcoolthrs) v ok t ∧
      exec (.setTcoolthrs v) s = .next (complete t (.setTcoolthrs v) .none (some ok) none)) ∧
    (∃ w ok t, ReadGives s (fieldAddr (field s .tcoolthrs)) w ok t ∧
      exec .getTcoolthrs s =
        .next (complete t .getTcoolthrs (.int (extractField (field s .tcoolthrs) w)) (some ok) none)) ∧
    (∃ w ok t, ReadGives s (fieldAddr (field s .version)) w ok t ∧
      exec .getVersion s =
        .next (complete t .getVersion (.int (extractField (field s .version) w)) (some ok) none))

/-! ### Local configuration -/

/-- Each local setter, given a value in its domain, stores it and changes nothing else but the result log; SET_NODEADDR does
so in phase CONFIG (spec/41_field_codec.md R180, R182, R185, spec/43_current_quantizer.md R240). -/
def Obligations.LocalSettersStoreTheirValue : Prop :=
  ∀ s : State,
    (∀ f : Rat, 0 < f → exec (.setFosc f) s = .next (complete { s with fosc := f } (.setFosc f) .none none none)) ∧
    (∀ (r : Rat) (b : Bool), 0 < r →
      exec (.setRsense r b) s =
        .next (complete { s with rsense := r, internalRsense := b } (.setRsense r b) .none none none)) ∧
    (∀ f : Rat, 0 ≤ f → f ≤ 1 →
      exec (.setHoldfrac f) s = .next (complete { s with holdFraction := f } (.setHoldfrac f) .none none none)) ∧
    (∀ a : NodeAddr, s.phase = .config →
      exec (.setNodeaddr a.toNat) s = .next (complete { s with node := a } (.setNodeaddr a.toNat) .none none none))

/-- Each local getter reports its field and changes nothing but the result log (spec/41_field_codec.md R181, R183, R186,
spec/43_current_quantizer.md R241). -/
def Obligations.LocalGettersReportTheirField : Prop :=
  ∀ s : State,
    exec .getFosc s = .next (complete s .getFosc (.rat s.fosc) none none) ∧
    exec .getRsense s = .next (complete s .getRsense (.sense s.rsense s.internalRsense) none none) ∧
    exec .getHoldfrac s = .next (complete s .getHoldfrac (.rat s.holdFraction) none none) ∧
    exec .getNodeaddr s = .next (complete s .getNodeaddr (.node s.node) none none)

/-! ### CQ -/

/-- The exact evaluation over the rationals rounds the real number 32√2·a to the nearest integer
(spec/43_current_quantizer.md R227, R228). -/
def Obligations.RationalRoundingIsRealRounding : Prop :=
  ∀ a : Rat, 0 ≤ a → (roundSqrt2 a : Int) = round (32 * √2 * (a : ℝ))

/-- The forward quantizer of a rational current follows the real formulas: the range selection on the unclamped first
result, the recomputation, the clamp (spec/43_current_quantizer.md R227, R229, R230). -/
def Obligations.ForwardFollowsTheRealFormulas : Prop :=
  ∀ (s : State) (amps : Rat), 0 ≤ amps → ConfigOk s → ParamsOk s.params →
    RealForward s amps (csForward s amps).scale (csForward s amps).vsense

/-- CS_FWD of a current that is not negative returns the scale and the range, with WARN_CAPABILITY exactly when the scale
was above 31 before the clamp, and changes nothing but the result log (spec/43_current_quantizer.md R229 to R231). -/
def Obligations.CsFwdReturnsScaleAndRange : Prop :=
  ∀ (s : State) (amps : Rat), 0 ≤ amps → ∃ k,
    (k = quantize s amps s.params.vfsHi ∧ 16 ≤ k ∧
      exec (.csFwd amps) s =
        .next (complete s (.csFwd amps) (.scale (min 31 (max 0 k)) false) none
          (if 31 < k then some .capability else none))) ∨
    (quantize s amps s.params.vfsHi < 16 ∧ k = quantize s amps s.params.vfsLo ∧
      exec (.csFwd amps) s =
        .next (complete s (.csFwd amps) (.scale (min 31 (max 0 k)) true) none
          (if 31 < k then some .capability else none)))

/-- With the spec's voltages the high-sensitivity scale is in 0..29 without a warning and the low-sensitivity scale in 16..31
(spec/43_current_quantizer.md R234). -/
def Obligations.ForwardRangesOfTheScale : Prop :=
  ∀ (s : State) (amps : Rat), 0 ≤ amps → 0 < s.rsense → DefaultVoltages s.params →
    ((csForward s amps).vsense = true →
      0 ≤ (csForward s amps).scale ∧ (csForward s amps).scale ≤ 29 ∧ (csForward s amps).warn = false) ∧
    ((csForward s amps).vsense = false → 16 ≤ (csForward s amps).scale ∧ (csForward s amps).scale ≤ 31)

/-- CS_INV of a 5-bit scale returns a rational q with q·√2 equal to the DAC formula over the reals, and changes nothing but
the result log (spec/43_current_quantizer.md R236, R237; the representation is log 18). -/
def Obligations.CsInvReturnsTheDacCurrent : Prop :=
  ∀ (s : State) (scale : Int) (vsense : Bool), 0 ≤ scale → scale ≤ 31 → ∃ q : Rat,
    exec (.csInv scale vsense) s = .next (complete s (.csInv scale vsense) (.current q) none none) ∧
    (q : ℝ) * √2 =
      ((scale : ℝ) + 1) / 32 * (((if vsense then s.params.vfsLo else s.params.vfsHi) : Rat) : ℝ) /
        ((s.rsense : ℝ) + (s.params.rInt : ℝ)) / √2

/-- SET_RMS of a current that is not negative stores the target, then writes VSENSE, IRUN and IHOLD in this order, each a
field write of its own; its ok is the AND of theirs and its warning that of the quantizer. The hold scale is the integer
nearest to the run scale times the hold fraction, a tie going away from zero, and for a fraction in 0..1 it lies between 0 and
the run scale (spec/43_current_quantizer.md R232, R233). -/
def Obligations.SetRmsWritesThreeFieldsInOrder : Prop :=
  ∀ (s : State) (amps : Rat), 0 ≤ amps → ∃ ok₁ t₁ ok₂ t₂ ok₃ t₃, ∃ (hold : Int) (exact : Rat),
    exact = ((csForward s amps).scale : Rat) * s.holdFraction ∧
    |(hold : Rat) - exact| ≤ 1 / 2 ∧ (|(hold : Rat) - exact| = 1 / 2 → |exact| < |(hold : Rat)|) ∧
    (0 ≤ s.holdFraction → s.holdFraction ≤ 1 → 0 ≤ hold ∧ hold ≤ (csForward s amps).scale) ∧
    FieldWriteGives { s with rmsTarget := some amps } (field s .vsense) (if (csForward s amps).vsense then 1 else 0) ok₁ t₁ ∧
    FieldWriteGives t₁ (field s .irun) (csForward s amps).scale ok₂ t₂ ∧
    FieldWriteGives t₂ (field s .ihold) hold ok₃ t₃ ∧
    exec (.setRms amps) s =
      .next (complete t₃ (.setRms amps) .none (some (ok₁ && ok₂ && ok₃))
        (if (csForward s amps).warn = true then some .capability else none))

/-- GET_RMS reads VSENSE and then IRUN from the chip and returns the inverse of what it read
(spec/43_current_quantizer.md R238). -/
def Obligations.GetRmsReadsTheChip : Prop :=
  ∀ s : State, ∃ v ok₁ t₁ w ok₂ t₂,
    ReadGives s (fieldAddr (field s .vsense)) v ok₁ t₁ ∧ ReadGives t₁ (fieldAddr (field s .irun)) w ok₂ t₂ ∧
    exec .getRms s =
      .next (complete t₂ .getRms
        (.current (csInverse s (extractField (field s .irun) w) (decide (extractField (field s .vsense) v ≠ 0))))
        (some (ok₁ && ok₂)) none)

/-- The forward function of the real current that the inverse gives for a scale and range gives them back exactly for the
low-sensitivity scales 16..31 and the high-sensitivity scales 0..28 (spec/43_current_quantizer.md R239). -/
def Obligations.InverseLawOnItsDomain : Prop :=
  ∀ (s : State) (scale : Int) (vsense : Bool), 0 < s.rsense → DefaultVoltages s.params → 0 ≤ scale → scale ≤ 31 →
    (RealForward s ((csInverse s scale vsense : ℝ) * √2) scale vsense ↔
      (vsense = false ∧ 16 ≤ scale) ∨ (vsense = true ∧ scale ≤ 28))

/-- Without a warning the current of the quantized scale is within one step of the current asked for, and within half a step
where the lower clamp did not apply; with a warning it is below it (spec/43_current_quantizer.md R242). -/
def Obligations.QuantizationErrorIsAtMostOneStep : Prop :=
  ∀ (s : State) (amps : Rat), 0 ≤ amps → ConfigOk s → ParamsOk s.params →
    ((csForward s amps).warn = false →
      |(csInverse s (csForward s amps).scale (csForward s amps).vsense : ℝ) * √2 - amps| ≤
        (fullScale s.params (csForward s amps).vsense : ℝ) / (32 * √2 * ((s.rsense : ℝ) + (s.params.rInt : ℝ)))) ∧
    ((csForward s amps).warn = false → 0 ≤ quantize s amps (fullScale s.params (csForward s amps).vsense) →
      |(csInverse s (csForward s amps).scale (csForward s amps).vsense : ℝ) * √2 - amps| ≤
        (fullScale s.params (csForward s amps).vsense : ℝ) / (32 * √2 * ((s.rsense : ℝ) + (s.params.rInt : ℝ))) / 2) ∧
    ((csForward s amps).warn = true →
      (csForward s amps).scale = 31 ∧
      (csInverse s (csForward s amps).scale (csForward s amps).vsense : ℝ) * √2 < amps)

/-- A larger current asked for never gives a smaller current of the DAC (spec/43_current_quantizer.md R244). -/
def Obligations.LargerRequestNeverGivesLessCurrent : Prop :=
  ∀ (s : State) (low high : Rat), 0 ≤ low → low ≤ high → 0 < s.rsense → DefaultVoltages s.params →
    csInverse s (csForward s low).scale (csForward s low).vsense ≤
      csInverse s (csForward s high).scale (csForward s high).vsense

/-! ### EDB -/

/-- CHECK of a handler id runs one handler step to its end where no listener is active or nothing is to be emitted: the rise
or fall list of a change is emitted, by the table of R196 (`changeEvents` writes it out), the input is stored
unconditionally, nothing else changes (spec/42_edge_detector.md R193, R194, R196). -/
def Obligations.CheckRunsOneHandlerStep : Prop :=
  ∀ (s : State) (h : Handler) (v : Bool), (s.nest = [] ∨ v = s.prev.get h ∨ changeEvents h v = []) →
    exec (.check (handlerId h) v) s =
      .next
        { s with
          prev := s.prev.set h v
          events := s.events ++ (if v = s.prev.get h then [] else changeEvents h v)
          results := s.results ++
            [{ op := some (.check (handlerId h) v),
               result := .completed (.events (if v = s.prev.get h then [] else changeEvents h v)) none none }] }

/-- Where listeners are active, CHECK and POLL stop at their first emission. A CHECK stops with the handler's cell still old
and everything else as it was. A POLL goes on in handler order until a handler has acquired its input and emitted the first
event of its change: that cell is still old, and the events left, the input and the handlers that follow are kept; without
any event it ends (spec/42_edge_detector.md R193, R207, R214; the queue of the listeners is log 16). -/
def Obligations.EmissionWaitsForItsListeners : Prop :=
  (∀ (s : State) (h : Handler) (v : Bool) (e : Event) (left : List Event), s.nest ≠ [] → v ≠ s.prev.get h →
    changeEvents h v = e :: left →
    ∃ a, a.handler = h ∧ a.input = v ∧ a.pending = left ∧ a.rest = [] ∧ a.ctx.emitter = .check (handlerId h) v ∧
      a.ctx.events = e :: left ∧
      exec (.check (handlerId h) v) s = .next { s with events := s.events ++ [e], stack := a :: s.stack }) ∧
  (∀ s : State, s.nest ≠ [] → ¬ PollInProgress s →
    ∃ t, PollGoesOn handlerOrder pollStart s t ∧ exec .poll s = .next t)

/-- A suspended operation goes on when the listener of its emission returns. Where events of its step are left and listeners
are active, the next is emitted and it waits again. Otherwise the events left are emitted and its own input is stored, over
whatever the listener stored there: a CHECK then ends, and a POLL runs its further handlers from the state the listener left,
to its end or to its next emission (spec/42_edge_detector.md R193, R207, R214, spec/70_reset_and_hazards.md R297; the queue
of the listeners is log 16). -/
def Obligations.SuspendedOperationGoesOnAfterItsListener : Prop :=
  ∀ (s : State) (a : Activation) (below : List Activation) (later : List NestedInput),
    s.stack = a :: below → (s.nest = [] ∧ later = []) ∨ s.nest = .ret :: later →
    (∀ e left, a.pending = e :: left → later ≠ [] →
      step s =
        .next { s with stack := { a with pending := left } :: below, nest := later, events := s.events ++ [e] }) ∧
    (∀ h v, a.ctx.emitter = .check h v → a.rest = [] → (later = [] ∨ a.pending = []) →
      step s =
        .next
          { s with
            stack := below
            nest := later
            prev := s.prev.set a.handler a.input
            events := s.events ++ a.pending
            results := s.results ++
              [{ op := some (.check h v), result := .completed (.events a.ctx.events) none none }] }) ∧
    (a.ctx.emitter = .poll → later = [] →
      ∃ ctx t,
        RunGives a.rest a.ctx
          { s with
            stack := below
            nest := []
            prev := s.prev.set a.handler a.input
            events := s.events ++ a.pending } ctx t ∧
        step s = .next (pollEnds ctx t)) ∧
    (a.ctx.emitter = .poll → a.pending = [] → later ≠ [] →
      ∃ t,
        PollGoesOn a.rest a.ctx { s with stack := below, nest := later, prev := s.prev.set a.handler a.input } t ∧
        step s = .next t)

/-- A handler fed any sequence of inputs by CHECK fires exactly on the changes between consecutive inputs, the rise list on
false to true and the fall list on true to false (spec/42_edge_detector.md R195). -/
def Obligations.HandlerFiresOncePerTransition : Prop :=
  ∀ (h : Handler) (vs : List Bool) (s : State), s.nest = [] →
    ∃ t, (vs.foldlM (fun u v => match exec (.check (handlerId h) v) u with | .next u' => some u' | _ => none) s) = some t ∧
      t.events = s.events ++
        (List.zipWith (fun p v => if p = v then [] else changeEvents h v) (s.prev.get h :: vs) vs).flatten ∧
      t.prev.get h = (s.prev.get h :: vs).getLast (by simp)

/-- A POLL outside any POLL and with no listener active runs to its end in one step of the machine: for each handler in order
its input is acquired and its whole step made. It makes at most nine transactions, each a read request, and its ok is the AND
of the ok bits of these reads, each true exactly when the reply to that read is well-formed. It reports the events it emitted.
It writes only what a POLL may write, and a flag only on its interrupt path, where it takes it; beside that a flag becomes
true by the edges inside its reads (spec/42_edge_detector.md R207, R210, spec/40_transport.md R121, spec/10_state.md R36,
spec/60_exceptions.md R277; the edges inside a transaction are log 11). -/
def Obligations.PollCompletesWithinNineReads : Prop :=
  ∀ s : State, s.nest = [] → ¬ PollInProgress s →
    ∃ ctx t reads, RunGives handlerOrder pollStart s ctx t ∧ exec .poll s = .next (pollEnds ctx t) ∧
      ReadsMade s t reads ∧ reads.length ≤ 9 ∧ ctx.ok = reads.all readOk ∧ t.events = s.events ++ ctx.events ∧
      SameButPoll s t ∧ t.stack = s.stack ∧ t.results = s.results ∧
      (s.irqDiag = false → t.diagFlag = (s.diagFlag || (edgesTaken s t).contains .diag)) ∧
      (s.irqDiag = true → t.diagFlag = (edgesTaken s t).contains .diag) ∧
      (s.irqIndex = false → t.indexFlag = (s.indexFlag || (edgesTaken s t).contains .index)) ∧
      (s.irqIndex = true → t.indexFlag = true → (edgesTaken s t).contains .index = true)

/-- A POLL on the interrupt paths with a DRV_STATUS read for each input takes both flags, derives the temperature-normal input
from two reads of its own, stores the nine inputs in the handler cells and emits the events of the changes in handler order
(spec/42_edge_detector.md R203 to R207). -/
def Obligations.PollTakesItsInputsInOrder : Prop :=
  ∀ (s : State) (w₁ w₂ w₃ w₄ w₅ w₆ w₇ w₈ : Word) (rest : List WireAnswer),
    s.nest = [] → ¬ PollInProgress s → s.irqDiag = true → s.irqIndex = true →
    s.params.fieldTable = defaultFieldTable → s.params.readback = .wire → s.params.pollSnapshot = .perField →
    s.wire = [w₁, w₂, w₃, w₄, w₅, w₆, w₇, w₈].map (healthyReply regDrvStatus) ++ rest →
    ∃ t new, exec .poll s = .next t ∧
      new = HandlerFile.mk s.diagFlag s.indexFlag (!w₁.getLsbD 0 && !w₂.getLsbD 1) (w₃.getLsbD 0) (w₄.getLsbD 1)
        (w₅.getLsbD 8) (w₆.getLsbD 9) (w₇.getLsbD 10) (w₈.getLsbD 11) ∧
      t.prev = new ∧ t.diagFlag = false ∧ t.indexFlag = false ∧ t.wire = rest ∧
      t.txLog = s.txLog ++ List.replicate 8 (buildR4 s.node regDrvStatus) ∧
      t.events = s.events ++ handlerOrder.flatMap fun h =>
        if new.get h = s.prev.get h then [] else changeEvents h (new.get h)

/-- With the snapshot `single` a POLL on the interrupt paths makes one DRV_STATUS read and takes every temperature input from
its word (spec/42_edge_detector.md R208). -/
def Obligations.PollSingleUsesOneSnapshot : Prop :=
  ∀ (s : State) (w : Word) (rest : List WireAnswer),
    s.nest = [] → ¬ PollInProgress s → s.irqDiag = true → s.irqIndex = true →
    s.params.fieldTable = defaultFieldTable → s.params.readback = .wire → s.params.pollSnapshot = .single →
    s.wire = healthyReply regDrvStatus w :: rest →
    ∃ t new, exec .poll s = .next t ∧
      new = HandlerFile.mk s.diagFlag s.indexFlag (!w.getLsbD 0 && !w.getLsbD 1) (w.getLsbD 0) (w.getLsbD 1)
        (w.getLsbD 8) (w.getLsbD 9) (w.getLsbD 10) (w.getLsbD 11) ∧
      t.prev = new ∧ t.wire = rest ∧ t.txLog = s.txLog ++ [buildR4 s.node regDrvStatus] ∧
      t.events = s.events ++ handlerOrder.flatMap fun h =>
        if new.get h = s.prev.get h then [] else changeEvents h (new.get h)

/-- A POLL takes the diag and the index input from their sources. On an interrupt path the input is the flag. Off it diag is
IOIN bit 4, read before anything else, or the level of the pin, and index is false or the level of the pin; a level is a
free value (log 15). With one interrupt source only, the other input is taken from its own source all the same; an index edge
inside the IOIN read is taken by the same POLL (log 11). Without a diag read every request is for DRV_STATUS
(spec/42_edge_detector.md R200, R202 to R205). -/
def Obligations.PollTakesDiagAndIndexFromTheirSources : Prop :=
  ∀ s : State, s.nest = [] → ¬ PollInProgress s →
    ∃ t, exec .poll s = .next t ∧
      (s.irqDiag = true → t.prev.diag = s.diagFlag) ∧
      (s.irqDiag = false → s.params.diagPollSource = .pin → ∃ n, t.prev.diag = Config.diagPin n) ∧
      (∀ w es rest, s.irqDiag = false → s.params.diagPollSource = .register → s.params.fieldTable = defaultFieldTable →
        ¬ ShadowRead s regIoin → s.wire = { rx := .reply (buildP8 regIoin w), edges := es } :: rest →
        t.prev.diag = w.getLsbD 4 ∧ (∃ frames, t.txLog = s.txLog ++ buildR4 s.node regIoin :: frames) ∧
        (s.irqIndex = true → t.prev.index = (s.indexFlag || es.contains .index))) ∧
      (s.irqIndex = true → (s.irqDiag = true ∨ s.params.diagPollSource = .pin) → t.prev.index = s.indexFlag) ∧
      (s.irqIndex = false → s.params.indexPollSource = .constFalse → t.prev.index = false) ∧
      (s.irqIndex = false → s.params.indexPollSource = .pin → ∃ n, t.prev.index = Config.indexPin n) ∧
      ((s.irqDiag = true ∨ s.params.diagPollSource = .pin) → s.params.fieldTable = defaultFieldTable →
        ∃ k, t.txLog = s.txLog ++ List.replicate k (buildR4 s.node regDrvStatus))

/-- The events of a POLL without listeners are in the fixed order, no temperature handler emits both of its events, there are
at most ten, and at most nine from a single snapshot (spec/42_edge_detector.md R209, R215). -/
def Obligations.PollEventsComeInTheFixedOrder : Prop :=
  ∀ (s t : State), s.nest = [] → ¬ PollInProgress s → exec .poll s = .next t →
    ∃ es, t.events = s.events ++ es ∧
      es.Sublist [.diagTriggered, .stalled, .indexTriggered, .temperatureNormal, .overtemperaturePrewarning,
        .overtemperature, .above120, .below120, .above143, .below143, .above150, .below150, .above157, .below157] ∧
      ¬ (.above120 ∈ es ∧ .below120 ∈ es) ∧ ¬ (.above143 ∈ es ∧ .below143 ∈ es) ∧
      ¬ (.above150 ∈ es ∧ .below150 ∈ es) ∧ ¬ (.above157 ∈ es ∧ .below157 ∈ es) ∧
      es.length ≤ 10 ∧ (s.params.pollSnapshot = .single → es.length ≤ 9)

/-- On the interrupt path a POLL emits DIAG_TRIGGERED and then STALLED, before anything else and once, exactly when the flag
was set and the handler's cell was false; so an edge right after a taken edge raises nothing
(spec/42_edge_detector.md R203, R212, R216). -/
def Obligations.DiagEdgeEmitsTriggeredThenStalledOnce : Prop :=
  ∀ s : State, s.nest = [] → ¬ PollInProgress s → s.irqDiag = true →
    ∃ t es, exec .poll s = .next t ∧
      t.events = s.events ++ (if s.diagFlag = true ∧ s.prev.diag = false then [.diagTriggered, .stalled] else []) ++ es ∧
      .diagTriggered ∉ es ∧ .stalled ∉ es ∧ t.prev.diag = s.diagFlag

/-- EDGE stores true in the flag of its source and changes nothing else, and a second EDGE of the source before it is taken
changes nothing at all (spec/42_edge_detector.md R200, R211). -/
def Obligations.EdgesCoalesceInTheirFlag : Prop :=
  ∀ s : State,
    exec (.edge .diag) s = .next { s with diagFlag := true } ∧ exec (.edge .index) s = .next { s with indexFlag := true } ∧
    (∀ src t, exec (.edge src) s = .next t → exec (.edge src) t = .next t)

/-! ### Refusals, SETUP and construction -/

/-- An operation that an input decodes to is refused exactly when the rules say so, with the first reason in their order; a
refusal only adds its entry to the result log, and an operation that is admitted logs no refusal (spec/60_exceptions.md R260
to R262; for the frames log 8). The refusals of inputs that decode to none, BAD_OPCODE and the operands of a wrong kind, are
InputsThatAreNoInstructionAreRefused. -/
def Obligations.RefusedExactlyWhenTheRulesSay : Prop :=
  ∀ (i : Instr) (s : State),
    (∀ r, refusalOf i s = some r →
      exec i s = .next { s with results := s.results ++ [{ op := some i, result := .refused r }] }) ∧
    (refusalOf i s = none → ∀ t, exec i s = .next t →
      ∃ new, t.results = s.results ++ new ∧ ∀ e ∈ new, ∀ r, e.result ≠ .refused r)

/-- SETUP outside a POLL enters RUNNING, clears the nine handlers and both flags, reloads the shadow in shadow mode, and keeps
everything else (spec/70_reset_and_hazards.md R281). -/
def Obligations.SetupRearmsAndKeepsConfiguration : Prop :=
  ∀ s : State, ¬ PollInProgress s →
    exec .setup s =
      .next
        { s with
          phase := .running
          prev := HandlerFile.mk false false false false false false false false false
          diagFlag := false
          indexFlag := false
          shadow := if s.params.readback = .shadow then s.params.shadowReset else s.shadow
          results := s.results ++ [{ op := some .setup, result := .completed .none none none }] }

/-- A block as it is built: phase CONFIG, the construction parameters in their fields, every handler and flag false, no RMS
target, the shadow at SHADOW_RESET, the logs empty (spec/70_reset_and_hazards.md R282). R282 gives the shadow in shadow mode
only; that it stands in the state and has the same value in wire mode is the model's choice (log 4). -/
def Obligations.ConstructionGivesTheSpecifiedState : Prop :=
  ∀ c : Construction, ∃ s, State.construct c = s ∧ s.phase = .config ∧ s.node = c.nodeAddr ∧ s.rsense = c.rsense ∧
    s.internalRsense = c.internalRsense ∧ s.holdFraction = c.holdFraction ∧ s.fosc = c.fosc ∧ s.rmsTarget = none ∧
    s.irqDiag = c.irqDiag ∧ s.irqIndex = c.irqIndex ∧ (∀ h, s.prev.get h = false) ∧ s.diagFlag = false ∧
    s.indexFlag = false ∧ (∀ a : RegAddr, s.shadow[a.toNat]'a.isLt = c.params.shadowReset[a.toNat]'a.isLt) ∧
    s.txLog = [] ∧ s.events = [] ∧ s.results = []

/-! ### The machine -/

/-- A step runs the instruction that the next input decodes to, on the state with that input taken: from the command port
while nothing is suspended, from the listeners' queue while an operation is (spec/10_state.md R22,
spec/42_edge_detector.md R214). That the next input is the head of `State.port` is the model's choice (log 7), and so is the
listeners' queue `State.nest` (log 16). -/
def Obligations.StepRunsTheDecodedInstruction : Prop :=
  ∀ (s : State) (inp : Input) (i : Instr), decode inp = .ok i →
    (∀ rest, s.stack = [] → s.port = inp :: rest → step s = exec i { s with port := rest }) ∧
    (∀ rest, s.stack ≠ [] → s.nest = .input inp :: rest → step s = exec i { s with nest := rest })

/-- Every step answers a next state: nothing in the block traps, faults or stops it (spec/60_exceptions.md R256, R263). A
block with nothing to do keeps its state (R275), and so does one whose listener never returns (R267). -/
def Obligations.EveryStepAnswersANextState : Prop :=
  (∀ s : State, ∃ t, step s = .next t) ∧ (∀ s : State, s.stack = [] → s.port = [] → step s = .next s) ∧
  (∀ (s : State) (rest : List NestedInput), s.stack ≠ [] → s.nest = .blocked :: rest → step s = .next s)

/-- From the first SETUP on, the phase stays RUNNING and the node address never changes (spec/10_state.md R24, R25,
spec/40_transport.md R127). -/
def Obligations.NodeAddressIsFixedAfterSetup : Prop :=
  ∀ s t : State, step s = .next t → s.phase = .running → t.phase = .running ∧ t.node = s.node

/-- Only the operations that the spec names write the configuration fields, the node address, the handlers and the edge flags.
No other instruction changes them, but for the edges that fall inside the transactions it makes: these, and no other thing,
set a flag beside EDGE, and only SETUP and a POLL on its interrupt path clear one (spec/10_state.md R36,
spec/42_edge_detector.md R200; that edges come with the answers is log 11). The same holds of a suspended operation that goes
on. -/
def Obligations.OnlyTheNamedOperationsWriteConfiguration : Prop :=
  (∀ (i : Instr) (s t : State), exec i s = .next t →
    ((∀ f, i ≠ .setFosc f) → t.fosc = s.fosc) ∧
    ((∀ r b, i ≠ .setRsense r b) → t.rsense = s.rsense ∧ t.internalRsense = s.internalRsense) ∧
    ((∀ f, i ≠ .setHoldfrac f) → t.holdFraction = s.holdFraction) ∧
    ((∀ q, i ≠ .setRms q) → t.rmsTarget = s.rmsTarget) ∧
    ((∀ a, i ≠ .setNodeaddr a) → t.node = s.node) ∧
    (i ≠ .setup → t.phase = s.phase) ∧
    (i ≠ .poll → (∀ h v, i ≠ .check h v) → i ≠ .setup → t.prev = s.prev ∧ t.events = s.events ∧ t.stack = s.stack) ∧
    (i ≠ .setup → (i = .poll → s.irqDiag = false) → i ≠ .edge .diag →
      t.diagFlag = (s.diagFlag || (edgesTaken s t).contains .diag)) ∧
    (i ≠ .setup → (i = .poll → s.irqIndex = false) → i ≠ .edge .index →
      t.indexFlag = (s.indexFlag || (edgesTaken s t).contains .index)) ∧
    (i ≠ .edge .diag → t.diagFlag = true → s.diagFlag = true ∨ (edgesTaken s t).contains .diag = true) ∧
    (i ≠ .edge .index → t.indexFlag = true → s.indexFlag = true ∨ (edgesTaken s t).contains .index = true)) ∧
  (∀ s t : State, fetch s = none → step s = .next t →
    t.fosc = s.fosc ∧ t.rsense = s.rsense ∧ t.internalRsense = s.internalRsense ∧ t.holdFraction = s.holdFraction ∧
    t.rmsTarget = s.rmsTarget ∧ t.node = s.node ∧ t.phase = s.phase ∧
    (s.irqDiag = false → t.diagFlag = (s.diagFlag || (edgesTaken s t).contains .diag)) ∧
    (s.irqIndex = false → t.indexFlag = (s.indexFlag || (edgesTaken s t).contains .index)) ∧
    (t.diagFlag = true → s.diagFlag = true ∨ (edgesTaken s t).contains .diag = true) ∧
    (t.indexFlag = true → s.indexFlag = true ∨ (edgesTaken s t).contains .index = true))

/-- No step changes the parameters or the choice of acquisition path, and the observation logs only grow
(spec/00_scope.md R9, spec/10_state.md R27, R33). In wire mode the shadow, which the spec then does not have, keeps its value:
that it stands in the state all the same is the model's choice (log 4). -/
def Obligations.ParametersStayAndLogsGrow : Prop :=
  ∀ s t : State, step s = .next t →
    t.params = s.params ∧ t.irqDiag = s.irqDiag ∧ t.irqIndex = s.irqIndex ∧
    s.txLog <+: t.txLog ∧ s.events <+: t.events ∧ s.results <+: t.results ∧
    (s.params.readback = .wire → t.shadow = s.shadow)

/-- Every instruction makes a bounded number of transactions: at most nine for POLL, six for SET_RMS, two for any other. The
bound takes in the reads that a suspended POLL has still to make: issuing the operation makes or leaves at most so many, and
every step by which a suspended operation goes on makes its transactions out of those left (spec/60_exceptions.md R277; the
suspension is log 16). -/
def Obligations.TransactionsPerOperationAreBounded : Prop :=
  (∀ (i : Instr) (s t : State), exec i s = .next t →
    s.txLog.length ≤ t.txLog.length ∧ readsLeft s ≤ readsLeft t ∧
    t.txLog.length + readsLeft t ≤
      s.txLog.length + readsLeft s + (match i with | .poll => 9 | .setRms _ => 6 | _ => 2)) ∧
  (∀ s t : State, fetch s = none → step s = .next t →
    t.txLog.length + readsLeft t ≤ s.txLog.length + readsLeft s)

/-- The invariant of a run holds at reset, and of every block built from parameters in their domains
(spec/70_reset_and_hazards.md R282; the reset parameters are log 2). -/
def Obligations.InvariantHoldsAtConstruction : Prop :=
  (∀ c : Construction, ConstructionOk c → Inv (State.construct c)) ∧ Inv State.reset

/-- Every step keeps the invariant: the configuration stays in its domains, every frame sent is a W8 or R4 with its CRC, what
is suspended has the shape of a handler step of a CHECK or of a POLL in handler order, and at most one POLL is in progress
(spec/10_state.md R23, spec/30_encoding.md R80, spec/42_edge_detector.md R193, R207, R214). -/
def Obligations.EveryStepKeepsTheInvariant : Prop :=
  ∀ s t : State, Inv s → step s = .next t → Inv t
end

