-- ==== Sys2Proof/Laws/State.lean ====
section
/-! SUPPORT. One lemma per field of the state for each update of Machine/Ops.lean, so that no proof unfolds an update. -/

namespace Sys2Proof.Machine

/-! ### The handler file -/

@[simp] theorem HandlerFile.get_set_same (p : HandlerFile) (h : Handler) (v : Bool) : (p.set h v).get h = v := by
  cases h <;> rfl

theorem HandlerFile.get_set_other (p : HandlerFile) (h k : Handler) (v : Bool) (ne : k ≠ h) :
    (p.set h v).get k = p.get k := by
  cases h <;> cases k <;> first | rfl | exact absurd rfl ne

@[simp] theorem HandlerFile.get_clear (h : Handler) : HandlerFile.clear.get h = false := by cases h <;> rfl

theorem HandlerFile.ext_get (p q : HandlerFile) (same : ∀ h, p.get h = q.get h) : p = q := by
  cases p; cases q
  have := same .diag; have := same .index; have := same .nt; have := same .otpw; have := same .ot
  have := same .t120; have := same .t143; have := same .t150; have := same .t157
  simp_all [HandlerFile.get]

/-! ### transact -/

@[simp] theorem transact_phase (s : State) (tx : List Byte) : (transact s tx).phase = s.phase := rfl
@[simp] theorem transact_node (s : State) (tx : List Byte) : (transact s tx).node = s.node := rfl
@[simp] theorem transact_rsense (s : State) (tx : List Byte) : (transact s tx).rsense = s.rsense := rfl
@[simp] theorem transact_internalRsense (s : State) (tx : List Byte) :
    (transact s tx).internalRsense = s.internalRsense := rfl
@[simp] theorem transact_holdFraction (s : State) (tx : List Byte) : (transact s tx).holdFraction = s.holdFraction := rfl
@[simp] theorem transact_fosc (s : State) (tx : List Byte) : (transact s tx).fosc = s.fosc := rfl
@[simp] theorem transact_rmsTarget (s : State) (tx : List Byte) : (transact s tx).rmsTarget = s.rmsTarget := rfl
@[simp] theorem transact_irqDiag (s : State) (tx : List Byte) : (transact s tx).irqDiag = s.irqDiag := rfl
@[simp] theorem transact_irqIndex (s : State) (tx : List Byte) : (transact s tx).irqIndex = s.irqIndex := rfl
@[simp] theorem transact_prev (s : State) (tx : List Byte) : (transact s tx).prev = s.prev := rfl
@[simp] theorem transact_diagFlag (s : State) (tx : List Byte) :
    (transact s tx).diagFlag = (s.diagFlag || (lineEdges s).contains .diag) := rfl
@[simp] theorem transact_indexFlag (s : State) (tx : List Byte) :
    (transact s tx).indexFlag = (s.indexFlag || (lineEdges s).contains .index) := rfl
@[simp] theorem transact_shadow (s : State) (tx : List Byte) : (transact s tx).shadow = s.shadow := rfl
@[simp] theorem transact_params (s : State) (tx : List Byte) : (transact s tx).params = s.params := rfl
@[simp] theorem transact_stack (s : State) (tx : List Byte) : (transact s tx).stack = s.stack := rfl
@[simp] theorem transact_port (s : State) (tx : List Byte) : (transact s tx).port = s.port := rfl
@[simp] theorem transact_nest (s : State) (tx : List Byte) : (transact s tx).nest = s.nest := rfl
@[simp] theorem transact_wire (s : State) (tx : List Byte) : (transact s tx).wire = s.wire.tail := rfl
@[simp] theorem transact_draws (s : State) (tx : List Byte) : (transact s tx).draws = s.draws + 1 := rfl
@[simp] theorem transact_txLog (s : State) (tx : List Byte) : (transact s tx).txLog = s.txLog ++ [tx] := rfl
@[simp] theorem transact_events (s : State) (tx : List Byte) : (transact s tx).events = s.events := rfl
@[simp] theorem transact_results (s : State) (tx : List Byte) : (transact s tx).results = s.results := rfl

/-! ### writeTransaction -/

@[simp] theorem writeTransaction_phase (s : State) (tx : List Byte) (reg : RegAddr) (v : Word) :
    (writeTransaction s tx reg v).phase = s.phase := by unfold writeTransaction; cases s.params.readback <;> rfl
@[simp] theorem writeTransaction_node (s : State) (tx : List Byte) (reg : RegAddr) (v : Word) :
    (writeTransaction s tx reg v).node = s.node := by unfold writeTransaction; cases s.params.readback <;> rfl
@[simp] theorem writeTransaction_rsense (s : State) (tx : List Byte) (reg : RegAddr) (v : Word) :
    (writeTransaction s tx reg v).rsense = s.rsense := by unfold writeTransaction; cases s.params.readback <;> rfl
@[simp] theorem writeTransaction_internalRsense (s : State) (tx : List Byte) (reg : RegAddr) (v : Word) :
    (writeTransaction s tx reg v).internalRsense = s.internalRsense := by unfold writeTransaction; cases s.params.readback <;> rfl
@[simp] theorem writeTransaction_holdFraction (s : State) (tx : List Byte) (reg : RegAddr) (v : Word) :
    (writeTransaction s tx reg v).holdFraction = s.holdFraction := by unfold writeTransaction; cases s.params.readback <;> rfl
@[simp] theorem writeTransaction_fosc (s : State) (tx : List Byte) (reg : RegAddr) (v : Word) :
    (writeTransaction s tx reg v).fosc = s.fosc := by unfold writeTransaction; cases s.params.readback <;> rfl
@[simp] theorem writeTransaction_rmsTarget (s : State) (tx : List Byte) (reg : RegAddr) (v : Word) :
    (writeTransaction s tx reg v).rmsTarget = s.rmsTarget := by unfold writeTransaction; cases s.params.readback <;> rfl
@[simp] theorem writeTransaction_irqDiag (s : State) (tx : List Byte) (reg : RegAddr) (v : Word) :
    (writeTransaction s tx reg v).irqDiag = s.irqDiag := by unfold writeTransaction; cases s.params.readback <;> rfl
@[simp] theorem writeTransaction_irqIndex (s : State) (tx : List Byte) (reg : RegAddr) (v : Word) :
    (writeTransaction s tx reg v).irqIndex = s.irqIndex := by unfold writeTransaction; cases s.params.readback <;> rfl
@[simp] theorem writeTransaction_prev (s : State) (tx : List Byte) (reg : RegAddr) (v : Word) :
    (writeTransaction s tx reg v).prev = s.prev := by unfold writeTransaction; cases s.params.readback <;> rfl
@[simp] theorem writeTransaction_diagFlag (s : State) (tx : List Byte) (reg : RegAddr) (v : Word) :
    (writeTransaction s tx reg v).diagFlag = (s.diagFlag || (lineEdges s).contains .diag) := by unfold writeTransaction; cases s.params.readback <;> rfl
@[simp] theorem writeTransaction_indexFlag (s : State) (tx : List Byte) (reg : RegAddr) (v : Word) :
    (writeTransaction s tx reg v).indexFlag = (s.indexFlag || (lineEdges s).contains .index) := by unfold writeTransaction; cases s.params.readback <;> rfl
@[simp] theorem writeTransaction_shadow (s : State) (tx : List Byte) (reg : RegAddr) (v : Word) :
    (writeTransaction s tx reg v).shadow = (match s.params.readback with | .wire => s.shadow | .shadow => s.shadow.set reg.toNat v reg.isLt) := by unfold writeTransaction; cases s.params.readback <;> rfl
@[simp] theorem writeTransaction_params (s : State) (tx : List Byte) (reg : RegAddr) (v : Word) :
    (writeTransaction s tx reg v).params = s.params := by unfold writeTransaction; cases s.params.readback <;> rfl
@[simp] theorem writeTransaction_stack (s : State) (tx : List Byte) (reg : RegAddr) (v : Word) :
    (writeTransaction s tx reg v).stack = s.stack := by unfold writeTransaction; cases s.params.readback <;> rfl
@[simp] theorem writeTransaction_port (s : State) (tx : List Byte) (reg : RegAddr) (v : Word) :
    (writeTransaction s tx reg v).port = s.port := by unfold writeTransaction; cases s.params.readback <;> rfl
@[simp] theorem writeTransaction_nest (s : State) (tx : List Byte) (reg : RegAddr) (v : Word) :
    (writeTransaction s tx reg v).nest = s.nest := by unfold writeTransaction; cases s.params.readback <;> rfl
@[simp] theorem writeTransaction_wire (s : State) (tx : List Byte) (reg : RegAddr) (v : Word) :
    (writeTransaction s tx reg v).wire = s.wire.tail := by unfold writeTransaction; cases s.params.readback <;> rfl
@[simp] theorem writeTransaction_draws (s : State) (tx : List Byte) (reg : RegAddr) (v : Word) :
    (writeTransaction s tx reg v).draws = s.draws + 1 := by unfold writeTransaction; cases s.params.readback <;> rfl
@[simp] theorem writeTransaction_txLog (s : State) (tx : List Byte) (reg : RegAddr) (v : Word) :
    (writeTransaction s tx reg v).txLog = s.txLog ++ [tx] := by unfold writeTransaction; cases s.params.readback <;> rfl
@[simp] theorem writeTransaction_events (s : State) (tx : List Byte) (reg : RegAddr) (v : Word) :
    (writeTransaction s tx reg v).events = s.events := by unfold writeTransaction; cases s.params.readback <;> rfl
@[simp] theorem writeTransaction_results (s : State) (tx : List Byte) (reg : RegAddr) (v : Word) :
    (writeTransaction s tx reg v).results = s.results := by unfold writeTransaction; cases s.params.readback <;> rfl

/-! ### logResult -/

@[simp] theorem logResult_phase (s : State) (op : Option Instr) (r : OpResult) : (logResult s op r).phase = s.phase := rfl
@[simp] theorem logResult_node (s : State) (op : Option Instr) (r : OpResult) : (logResult s op r).node = s.node := rfl
@[simp] theorem logResult_rsense (s : State) (op : Option Instr) (r : OpResult) : (logResult s op r).rsense = s.rsense := rfl
@[simp] theorem logResult_internalRsense (s : State) (op : Option Instr) (r : OpResult) :
    (logResult s op r).internalRsense = s.internalRsense := rfl
@[simp] theorem logResult_holdFraction (s : State) (op : Option Instr) (r : OpResult) :
    (logResult s op r).holdFraction = s.holdFraction := rfl
@[simp] theorem logResult_fosc (s : State) (op : Option Instr) (r : OpResult) : (logResult s op r).fosc = s.fosc := rfl
@[simp] theorem logResult_rmsTarget (s : State) (op : Option Instr) (r : OpResult) :
    (logResult s op r).rmsTarget = s.rmsTarget := rfl
@[simp] theorem logResult_irqDiag (s : State) (op : Option Instr) (r : OpResult) :
    (logResult s op r).irqDiag = s.irqDiag := rfl
@[simp] theorem logResult_irqIndex (s : State) (op : Option Instr) (r : OpResult) :
    (logResult s op r).irqIndex = s.irqIndex := rfl
@[simp] theorem logResult_prev (s : State) (op : Option Instr) (r : OpResult) : (logResult s op r).prev = s.prev := rfl
@[simp] theorem logResult_diagFlag (s : State) (op : Option Instr) (r : OpResult) :
    (logResult s op r).diagFlag = s.diagFlag := rfl
@[simp] theorem logResult_indexFlag (s : State) (op : Option Instr) (r : OpResult) :
    (logResult s op r).indexFlag = s.indexFlag := rfl
@[simp] theorem logResult_shadow (s : State) (op : Option Instr) (r : OpResult) : (logResult s op r).shadow = s.shadow := rfl
@[simp] theorem logResult_params (s : State) (op : Option Instr) (r : OpResult) : (logResult s op r).params = s.params := rfl
@[simp] theorem logResult_stack (s : State) (op : Option Instr) (r : OpResult) : (logResult s op r).stack = s.stack := rfl
@[simp] theorem logResult_port (s : State) (op : Option Instr) (r : OpResult) : (logResult s op r).port = s.port := rfl
@[simp] theorem logResult_nest (s : State) (op : Option Instr) (r : OpResult) : (logResult s op r).nest = s.nest := rfl
@[simp] theorem logResult_wire (s : State) (op : Option Instr) (r : OpResult) : (logResult s op r).wire = s.wire := rfl
@[simp] theorem logResult_draws (s : State) (op : Option Instr) (r : OpResult) : (logResult s op r).draws = s.draws := rfl
@[simp] theorem logResult_txLog (s : State) (op : Option Instr) (r : OpResult) : (logResult s op r).txLog = s.txLog := rfl
@[simp] theorem logResult_events (s : State) (op : Option Instr) (r : OpResult) : (logResult s op r).events = s.events := rfl
@[simp] theorem logResult_results (s : State) (op : Option Instr) (r : OpResult) :
    (logResult s op r).results = s.results ++ [{ op := op, result := r }] := rfl

/-! ### complete -/

@[simp] theorem complete_phase (s : State) (op : Instr) (x : Value) (ok : Option Bool) (w : Option Warning) :
    (complete s op x ok w).phase = s.phase := rfl
@[simp] theorem complete_node (s : State) (op : Instr) (x : Value) (ok : Option Bool) (w : Option Warning) :
    (complete s op x ok w).node = s.node := rfl
@[simp] theorem complete_rsense (s : State) (op : Instr) (x : Value) (ok : Option Bool) (w : Option Warning) :
    (complete s op x ok w).rsense = s.rsense := rfl
@[simp] theorem complete_internalRsense (s : State) (op : Instr) (x : Value) (ok : Option Bool) (w : Option Warning) :
    (complete s op x ok w).internalRsense = s.internalRsense := rfl
@[simp] theorem complete_holdFraction (s : State) (op : Instr) (x : Value) (ok : Option Bool) (w : Option Warning) :
    (complete s op x ok w).holdFraction = s.holdFraction := rfl
@[simp] theorem complete_fosc (s : State) (op : Instr) (x : Value) (ok : Option Bool) (w : Option Warning) :
    (complete s op x ok w).fosc = s.fosc := rfl
@[simp] theorem complete_rmsTarget (s : State) (op : Instr) (x : Value) (ok : Option Bool) (w : Option Warning) :
    (complete s op x ok w).rmsTarget = s.rmsTarget := rfl
@[simp] theorem complete_irqDiag (s : State) (op : Instr) (x : Value) (ok : Option Bool) (w : Option Warning) :
    (complete s op x ok w).irqDiag = s.irqDiag := rfl
@[simp] theorem complete_irqIndex (s : State) (op : Instr) (x : Value) (ok : Option Bool) (w : Option Warning) :
    (complete s op x ok w).irqIndex = s.irqIndex := rfl
@[simp] theorem complete_prev (s : State) (op : Instr) (x : Value) (ok : Option Bool) (w : Option Warning) :
    (complete s op x ok w).prev = s.prev := rfl
@[simp] theorem complete_diagFlag (s : State) (op : Instr) (x : Value) (ok : Option Bool) (w : Option Warning) :
    (complete s op x ok w).diagFlag = s.diagFlag := rfl
@[simp] theorem complete_indexFlag (s : State) (op : Instr) (x : Value) (ok : Option Bool) (w : Option Warning) :
    (complete s op x ok w).indexFlag = s.indexFlag := rfl
@[simp] theorem complete_shadow (s : State) (op : Instr) (x : Value) (ok : Option Bool) (w : Option Warning) :
    (complete s op x ok w).shadow = s.shadow := rfl
@[simp] theorem complete_params (s : State) (op : Instr) (x : Value) (ok : Option Bool) (w : Option Warning) :
    (complete s op x ok w).params = s.params := rfl
@[simp] theorem complete_stack (s : State) (op : Instr) (x : Value) (ok : Option Bool) (w : Option Warning) :
    (complete s op x ok w).stack = s.stack := rfl
@[simp] theorem complete_port (s : State) (op : Instr) (x : Value) (ok : Option Bool) (w : Option Warning) :
    (complete s op x ok w).port = s.port := rfl
@[simp] theorem complete_nest (s : State) (op : Instr) (x : Value) (ok : Option Bool) (w : Option Warning) :
    (complete s op x ok w).nest = s.nest := rfl
@[simp] theorem complete_wire (s : State) (op : Instr) (x : Value) (ok : Option Bool) (w : Option Warning) :
    (complete s op x ok w).wire = s.wire := rfl
@[simp] theorem complete_draws (s : State) (op : Instr) (x : Value) (ok : Option Bool) (w : Option Warning) :
    (complete s op x ok w).draws = s.draws := rfl
@[simp] theorem complete_txLog (s : State) (op : Instr) (x : Value) (ok : Option Bool) (w : Option Warning) :
    (complete s op x ok w).txLog = s.txLog := rfl
@[simp] theorem complete_events (s : State) (op : Instr) (x : Value) (ok : Option Bool) (w : Option Warning) :
    (complete s op x ok w).events = s.events := rfl
@[simp] theorem complete_results (s : State) (op : Instr) (x : Value) (ok : Option Bool) (w : Option Warning) :
    (complete s op x ok w).results = s.results ++ [{ op := some op, result := .completed x ok w }] := rfl

/-! ### refuse -/

@[simp] theorem refuse_phase (s : State) (op : Option Instr) (r : RefuseReason) : (refuse s op r).phase = s.phase := rfl
@[simp] theorem refuse_node (s : State) (op : Option Instr) (r : RefuseReason) : (refuse s op r).node = s.node := rfl
@[simp] theorem refuse_rsense (s : State) (op : Option Instr) (r : RefuseReason) : (refuse s op r).rsense = s.rsense := rfl
@[simp] theorem refuse_internalRsense (s : State) (op : Option Instr) (r : RefuseReason) :
    (refuse s op r).internalRsense = s.internalRsense := rfl
@[simp] theorem refuse_holdFraction (s : State) (op : Option Instr) (r : RefuseReason) :
    (refuse s op r).holdFraction = s.holdFraction := rfl
@[simp] theorem refuse_fosc (s : State) (op : Option Instr) (r : RefuseReason) : (refuse s op r).fosc = s.fosc := rfl
@[simp] theorem refuse_rmsTarget (s : State) (op : Option Instr) (r : RefuseReason) :
    (refuse s op r).rmsTarget = s.rmsTarget := rfl
@[simp] theorem refuse_irqDiag (s : State) (op : Option Instr) (r : RefuseReason) :
    (refuse s op r).irqDiag = s.irqDiag := rfl
@[simp] theorem refuse_irqIndex (s : State) (op : Option Instr) (r : RefuseReason) :
    (refuse s op r).irqIndex = s.irqIndex := rfl
@[simp] theorem refuse_prev (s : State) (op : Option Instr) (r : RefuseReason) : (refuse s op r).prev = s.prev := rfl
@[simp] theorem refuse_diagFlag (s : State) (op : Option Instr) (r : RefuseReason) :
    (refuse s op r).diagFlag = s.diagFlag := rfl
@[simp] theorem refuse_indexFlag (s : State) (op : Option Instr) (r : RefuseReason) :
    (refuse s op r).indexFlag = s.indexFlag := rfl
@[simp] theorem refuse_shadow (s : State) (op : Option Instr) (r : RefuseReason) : (refuse s op r).shadow = s.shadow := rfl
@[simp] theorem refuse_params (s : State) (op : Option Instr) (r : RefuseReason) : (refuse s op r).params = s.params := rfl
@[simp] theorem refuse_stack (s : State) (op : Option Instr) (r : RefuseReason) : (refuse s op r).stack = s.stack := rfl
@[simp] theorem refuse_port (s : State) (op : Option Instr) (r : RefuseReason) : (refuse s op r).port = s.port := rfl
@[simp] theorem refuse_nest (s : State) (op : Option Instr) (r : RefuseReason) : (refuse s op r).nest = s.nest := rfl
@[simp] theorem refuse_wire (s : State) (op : Option Instr) (r : RefuseReason) : (refuse s op r).wire = s.wire := rfl
@[simp] theorem refuse_draws (s : State) (op : Option Instr) (r : RefuseReason) : (refuse s op r).draws = s.draws := rfl
@[simp] theorem refuse_txLog (s : State) (op : Option Instr) (r : RefuseReason) : (refuse s op r).txLog = s.txLog := rfl
@[simp] theorem refuse_events (s : State) (op : Option Instr) (r : RefuseReason) : (refuse s op r).events = s.events := rfl
@[simp] theorem refuse_results (s : State) (op : Option Instr) (r : RefuseReason) :
    (refuse s op r).results = s.results ++ [{ op := op, result := .refused r }] := rfl

/-! ### setPrev -/

@[simp] theorem setPrev_phase (s : State) (h : Handler) (v : Bool) : (setPrev s h v).phase = s.phase := rfl
@[simp] theorem setPrev_node (s : State) (h : Handler) (v : Bool) : (setPrev s h v).node = s.node := rfl
@[simp] theorem setPrev_rsense (s : State) (h : Handler) (v : Bool) : (setPrev s h v).rsense = s.rsense := rfl
@[simp] theorem setPrev_internalRsense (s : State) (h : Handler) (v : Bool) :
    (setPrev s h v).internalRsense = s.internalRsense := rfl
@[simp] theorem setPrev_holdFraction (s : State) (h : Handler) (v : Bool) :
    (setPrev s h v).holdFraction = s.holdFraction := rfl
@[simp] theorem setPrev_fosc (s : State) (h : Handler) (v : Bool) : (setPrev s h v).fosc = s.fosc := rfl
@[simp] theorem setPrev_rmsTarget (s : State) (h : Handler) (v : Bool) : (setPrev s h v).rmsTarget = s.rmsTarget := rfl
@[simp] theorem setPrev_irqDiag (s : State) (h : Handler) (v : Bool) : (setPrev s h v).irqDiag = s.irqDiag := rfl
@[simp] theorem setPrev_irqIndex (s : State) (h : Handler) (v : Bool) : (setPrev s h v).irqIndex = s.irqIndex := rfl
@[simp] theorem setPrev_prev (s : State) (h : Handler) (v : Bool) : (setPrev s h v).prev = s.prev.set h v := rfl
@[simp] theorem setPrev_diagFlag (s : State) (h : Handler) (v : Bool) : (setPrev s h v).diagFlag = s.diagFlag := rfl
@[simp] theorem setPrev_indexFlag (s : State) (h : Handler) (v : Bool) : (setPrev s h v).indexFlag = s.indexFlag := rfl
@[simp] theorem setPrev_shadow (s : State) (h : Handler) (v : Bool) : (setPrev s h v).shadow = s.shadow := rfl
@[simp] theorem setPrev_params (s : State) (h : Handler) (v : Bool) : (setPrev s h v).params = s.params := rfl
@[simp] theorem setPrev_stack (s : State) (h : Handler) (v : Bool) : (setPrev s h v).stack = s.stack := rfl
@[simp] theorem setPrev_port (s : State) (h : Handler) (v : Bool) : (setPrev s h v).port = s.port := rfl
@[simp] theorem setPrev_nest (s : State) (h : Handler) (v : Bool) : (setPrev s h v).nest = s.nest := rfl
@[simp] theorem setPrev_wire (s : State) (h : Handler) (v : Bool) : (setPrev s h v).wire = s.wire := rfl
@[simp] theorem setPrev_draws (s : State) (h : Handler) (v : Bool) : (setPrev s h v).draws = s.draws := rfl
@[simp] theorem setPrev_txLog (s : State) (h : Handler) (v : Bool) : (setPrev s h v).txLog = s.txLog := rfl
@[simp] theorem setPrev_events (s : State) (h : Handler) (v : Bool) : (setPrev s h v).events = s.events := rfl
@[simp] theorem setPrev_results (s : State) (h : Handler) (v : Bool) : (setPrev s h v).results = s.results := rfl

/-! ### emit -/

@[simp] theorem emit_phase (s : State) (e : Event) : (emit s e).phase = s.phase := rfl
@[simp] theorem emit_node (s : State) (e : Event) : (emit s e).node = s.node := rfl
@[simp] theorem emit_rsense (s : State) (e : Event) : (emit s e).rsense = s.rsense := rfl
@[simp] theorem emit_internalRsense (s : State) (e : Event) : (emit s e).internalRsense = s.internalRsense := rfl
@[simp] theorem emit_holdFraction (s : State) (e : Event) : (emit s e).holdFraction = s.holdFraction := rfl
@[simp] theorem emit_fosc (s : State) (e : Event) : (emit s e).fosc = s.fosc := rfl
@[simp] theorem emit_rmsTarget (s : State) (e : Event) : (emit s e).rmsTarget = s.rmsTarget := rfl
@[simp] theorem emit_irqDiag (s : State) (e : Event) : (emit s e).irqDiag = s.irqDiag := rfl
@[simp] theorem emit_irqIndex (s : State) (e : Event) : (emit s e).irqIndex = s.irqIndex := rfl
@[simp] theorem emit_prev (s : State) (e : Event) : (emit s e).prev = s.prev := rfl
@[simp] theorem emit_diagFlag (s : State) (e : Event) : (emit s e).diagFlag = s.diagFlag := rfl
@[simp] theorem emit_indexFlag (s : State) (e : Event) : (emit s e).indexFlag = s.indexFlag := rfl
@[simp] theorem emit_shadow (s : State) (e : Event) : (emit s e).shadow = s.shadow := rfl
@[simp] theorem emit_params (s : State) (e : Event) : (emit s e).params = s.params := rfl
@[simp] theorem emit_stack (s : State) (e : Event) : (emit s e).stack = s.stack := rfl
@[simp] theorem emit_port (s : State) (e : Event) : (emit s e).port = s.port := rfl
@[simp] theorem emit_nest (s : State) (e : Event) : (emit s e).nest = s.nest := rfl
@[simp] theorem emit_wire (s : State) (e : Event) : (emit s e).wire = s.wire := rfl
@[simp] theorem emit_draws (s : State) (e : Event) : (emit s e).draws = s.draws := rfl
@[simp] theorem emit_txLog (s : State) (e : Event) : (emit s e).txLog = s.txLog := rfl
@[simp] theorem emit_events (s : State) (e : Event) : (emit s e).events = s.events ++ [e] := rfl
@[simp] theorem emit_results (s : State) (e : Event) : (emit s e).results = s.results := rfl

/-! ### suspend -/

@[simp] theorem suspend_phase (s : State) (a : Activation) : (suspend s a).phase = s.phase := rfl
@[simp] theorem suspend_node (s : State) (a : Activation) : (suspend s a).node = s.node := rfl
@[simp] theorem suspend_rsense (s : State) (a : Activation) : (suspend s a).rsense = s.rsense := rfl
@[simp] theorem suspend_internalRsense (s : State) (a : Activation) : (suspend s a).internalRsense = s.internalRsense := rfl
@[simp] theorem suspend_holdFraction (s : State) (a : Activation) : (suspend s a).holdFraction = s.holdFraction := rfl
@[simp] theorem suspend_fosc (s : State) (a : Activation) : (suspend s a).fosc = s.fosc := rfl
@[simp] theorem suspend_rmsTarget (s : State) (a : Activation) : (suspend s a).rmsTarget = s.rmsTarget := rfl
@[simp] theorem suspend_irqDiag (s : State) (a : Activation) : (suspend s a).irqDiag = s.irqDiag := rfl
@[simp] theorem suspend_irqIndex (s : State) (a : Activation) : (suspend s a).irqIndex = s.irqIndex := rfl
@[simp] theorem suspend_prev (s : State) (a : Activation) : (suspend s a).prev = s.prev := rfl
@[simp] theorem suspend_diagFlag (s : State) (a : Activation) : (suspend s a).diagFlag = s.diagFlag := rfl
@[simp] theorem suspend_indexFlag (s : State) (a : Activation) : (suspend s a).indexFlag = s.indexFlag := rfl
@[simp] theorem suspend_shadow (s : State) (a : Activation) : (suspend s a).shadow = s.shadow := rfl
@[simp] theorem suspend_params (s : State) (a : Activation) : (suspend s a).params = s.params := rfl
@[simp] theorem suspend_stack (s : State) (a : Activation) : (suspend s a).stack = a :: s.stack := rfl
@[simp] theorem suspend_port (s : State) (a : Activation) : (suspend s a).port = s.port := rfl
@[simp] theorem suspend_nest (s : State) (a : Activation) : (suspend s a).nest = s.nest := rfl
@[simp] theorem suspend_wire (s : State) (a : Activation) : (suspend s a).wire = s.wire := rfl
@[simp] theorem suspend_draws (s : State) (a : Activation) : (suspend s a).draws = s.draws := rfl
@[simp] theorem suspend_txLog (s : State) (a : Activation) : (suspend s a).txLog = s.txLog := rfl
@[simp] theorem suspend_events (s : State) (a : Activation) : (suspend s a).events = s.events := rfl
@[simp] theorem suspend_results (s : State) (a : Activation) : (suspend s a).results = s.results := rfl

/-! ### setFlag -/

@[simp] theorem setFlag_phase (s : State) (src : EdgeSrc) : (setFlag s src).phase = s.phase := by cases src <;> rfl
@[simp] theorem setFlag_node (s : State) (src : EdgeSrc) : (setFlag s src).node = s.node := by cases src <;> rfl
@[simp] theorem setFlag_rsense (s : State) (src : EdgeSrc) : (setFlag s src).rsense = s.rsense := by cases src <;> rfl
@[simp] theorem setFlag_internalRsense (s : State) (src : EdgeSrc) :
    (setFlag s src).internalRsense = s.internalRsense := by cases src <;> rfl
@[simp] theorem setFlag_holdFraction (s : State) (src : EdgeSrc) :
    (setFlag s src).holdFraction = s.holdFraction := by cases src <;> rfl
@[simp] theorem setFlag_fosc (s : State) (src : EdgeSrc) : (setFlag s src).fosc = s.fosc := by cases src <;> rfl
@[simp] theorem setFlag_rmsTarget (s : State) (src : EdgeSrc) :
    (setFlag s src).rmsTarget = s.rmsTarget := by cases src <;> rfl
@[simp] theorem setFlag_irqDiag (s : State) (src : EdgeSrc) : (setFlag s src).irqDiag = s.irqDiag := by cases src <;> rfl
@[simp] theorem setFlag_irqIndex (s : State) (src : EdgeSrc) : (setFlag s src).irqIndex = s.irqIndex := by cases src <;> rfl
@[simp] theorem setFlag_prev (s : State) (src : EdgeSrc) : (setFlag s src).prev = s.prev := by cases src <;> rfl
@[simp] theorem setFlag_shadow (s : State) (src : EdgeSrc) : (setFlag s src).shadow = s.shadow := by cases src <;> rfl
@[simp] theorem setFlag_params (s : State) (src : EdgeSrc) : (setFlag s src).params = s.params := by cases src <;> rfl
@[simp] theorem setFlag_stack (s : State) (src : EdgeSrc) : (setFlag s src).stack = s.stack := by cases src <;> rfl
@[simp] theorem setFlag_port (s : State) (src : EdgeSrc) : (setFlag s src).port = s.port := by cases src <;> rfl
@[simp] theorem setFlag_nest (s : State) (src : EdgeSrc) : (setFlag s src).nest = s.nest := by cases src <;> rfl
@[simp] theorem setFlag_wire (s : State) (src : EdgeSrc) : (setFlag s src).wire = s.wire := by cases src <;> rfl
@[simp] theorem setFlag_draws (s : State) (src : EdgeSrc) : (setFlag s src).draws = s.draws := by cases src <;> rfl
@[simp] theorem setFlag_txLog (s : State) (src : EdgeSrc) : (setFlag s src).txLog = s.txLog := by cases src <;> rfl
@[simp] theorem setFlag_events (s : State) (src : EdgeSrc) : (setFlag s src).events = s.events := by cases src <;> rfl
@[simp] theorem setFlag_results (s : State) (src : EdgeSrc) : (setFlag s src).results = s.results := by cases src <;> rfl

/-! ### clearFlag -/

@[simp] theorem clearFlag_phase (s : State) (src : EdgeSrc) : (clearFlag s src).phase = s.phase := by cases src <;> rfl
@[simp] theorem clearFlag_node (s : State) (src : EdgeSrc) : (clearFlag s src).node = s.node := by cases src <;> rfl
@[simp] theorem clearFlag_rsense (s : State) (src : EdgeSrc) : (clearFlag s src).rsense = s.rsense := by cases src <;> rfl
@[simp] theorem clearFlag_internalRsense (s : State) (src : EdgeSrc) :
    (clearFlag s src).internalRsense = s.internalRsense := by cases src <;> rfl
@[simp] theorem clearFlag_holdFraction (s : State) (src : EdgeSrc) :
    (clearFlag s src).holdFraction = s.holdFraction := by cases src <;> rfl
@[simp] theorem clearFlag_fosc (s : State) (src : EdgeSrc) : (clearFlag s src).fosc = s.fosc := by cases src <;> rfl
@[simp] theorem clearFlag_rmsTarget (s : State) (src : EdgeSrc) :
    (clearFlag s src).rmsTarget = s.rmsTarget := by cases src <;> rfl
@[simp] theorem clearFlag_irqDiag (s : State) (src : EdgeSrc) : (clearFlag s src).irqDiag = s.irqDiag := by cases src <;> rfl
@[simp] theorem clearFlag_irqIndex (s : State) (src : EdgeSrc) :
    (clearFlag s src).irqIndex = s.irqIndex := by cases src <;> rfl
@[simp] theorem clearFlag_prev (s : State) (src : EdgeSrc) : (clearFlag s src).prev = s.prev := by cases src <;> rfl
@[simp] theorem clearFlag_shadow (s : State) (src : EdgeSrc) : (clearFlag s src).shadow = s.shadow := by cases src <;> rfl
@[simp] theorem clearFlag_params (s : State) (src : EdgeSrc) : (clearFlag s src).params = s.params := by cases src <;> rfl
@[simp] theorem clearFlag_stack (s : State) (src : EdgeSrc) : (clearFlag s src).stack = s.stack := by cases src <;> rfl
@[simp] theorem clearFlag_port (s : State) (src : EdgeSrc) : (clearFlag s src).port = s.port := by cases src <;> rfl
@[simp] theorem clearFlag_nest (s : State) (src : EdgeSrc) : (clearFlag s src).nest = s.nest := by cases src <;> rfl
@[simp] theorem clearFlag_wire (s : State) (src : EdgeSrc) : (clearFlag s src).wire = s.wire := by cases src <;> rfl
@[simp] theorem clearFlag_draws (s : State) (src : EdgeSrc) : (clearFlag s src).draws = s.draws := by cases src <;> rfl
@[simp] theorem clearFlag_txLog (s : State) (src : EdgeSrc) : (clearFlag s src).txLog = s.txLog := by cases src <;> rfl
@[simp] theorem clearFlag_events (s : State) (src : EdgeSrc) : (clearFlag s src).events = s.events := by cases src <;> rfl
@[simp] theorem clearFlag_results (s : State) (src : EdgeSrc) : (clearFlag s src).results = s.results := by cases src <;> rfl

/-! ### The edge flags -/

@[simp] theorem flagOf_setFlag (s : State) (src k : EdgeSrc) : flagOf (setFlag s src) k = (flagOf s k || k == src) := by
  cases src <;> cases k <;> simp [flagOf, setFlag]

@[simp] theorem flagOf_clearFlag (s : State) (src k : EdgeSrc) :
    flagOf (clearFlag s src) k = (flagOf s k && k != src) := by
  cases src <;> cases k <;> simp [flagOf, clearFlag]

end Sys2Proof.Machine
end

