-- ==== Sys2Proof/Laws/Ops.lean ====
section
/-! SUPPORT. One lemma for each shared operation that says once everything it can do, in the terms of Safety.lean. -/

namespace Sys2Proof.Machine

/-! ### Transactions -/

theorem transact_eq_afterFrames (s : State) (tx : List Byte) : transact s tx = afterFrames s [tx] := by
  cases h : s.wire with
  | nil => simp [transact, afterFrames, lineEdges, h]
  | cons a rest => simp [transact, afterFrames, lineEdges, h]

theorem afterFrames_afterFrames (s : State) (xs ys : List (List Byte)) :
    afterFrames (afterFrames s xs) ys = afterFrames s (xs ++ ys) := by
  have taken : s.wire.take (xs.length + ys.length) = s.wire.take xs.length ++ (s.wire.drop xs.length).take ys.length := by
    rw [List.take_add]
  simp only [afterFrames, List.length_append, taken, List.append_assoc, List.flatMap_append, List.contains_append,
    Bool.or_assoc, List.drop_drop, Nat.add_assoc]

@[simp] theorem afterFrames_nil (s : State) : afterFrames s [] = s := by simp [afterFrames]

theorem readsShadow_iff (s : State) (reg : RegAddr) : readsShadow s reg = true ↔ ShadowRead s reg := by
  simp [readsShadow, ShadowRead]

theorem memRead_gives (s : State) (reg : RegAddr) :
    ReadGives s reg (memRead s reg).value (memRead s reg).ok (memRead s reg).state := by
  by_cases h : readsShadow s reg = true
  · exact .inl ⟨(readsShadow_iff s reg).1 h, by simp [memRead, h]⟩
  · refine .inr ⟨fun h' => h ((readsShadow_iff s reg).2 h'), ?_⟩
    have window : replyOf s (buildR4 s.node reg) 8 = replyWindow s reg := rfl
    refine ⟨?_, ?_, ?_⟩
    · simp [memRead, h, readTransaction, window]
    · intro ok
      simp [memRead, h, readTransaction, window] at ok
      simp [memRead, h, readTransaction, window, ok]
    · simp [memRead, h, readTransaction, transact_eq_afterFrames]

theorem memWrite_eq_afterWrite (s : State) (reg : RegAddr) (v : Word) : memWrite s reg v = afterWrite s reg v := by
  cases h : s.params.readback <;>
    simp [memWrite, writeTransaction, afterWrite, h, transact_eq_afterFrames]
  simp [afterFrames]

theorem writeField_gives (s : State) (f : FieldSpec) (v : Int) :
    FieldWriteGives s f v (writeField s f v).ok (writeField s f v).state := by
  cases h : coversRegister f with
  | true => exact .inl ⟨h, by simp [writeField, h], by simp [writeField, h, memWrite_eq_afterWrite]⟩
  | false =>
    exact .inr ⟨h, _, _, by simpa [writeField, h] using memRead_gives s (fieldAddr f),
      by simp [writeField, h, memWrite_eq_afterWrite]⟩

/-! ### Emission -/

@[simp] theorem afterEvents_nil (s : State) : afterEvents s [] = s := by simp [afterEvents]

theorem afterEvents_cons (s : State) (e : Event) (es : List Event) :
    afterEvents s (e :: es) = afterEvents (emit s e) es := by simp [afterEvents, emit]

theorem emitAll_of_no_listener (es : List Event) (s : State) (h : s.nest = []) :
    emitAll es s = { waiting := false, left := [], state := afterEvents s es } := by
  induction es generalizing s with
  | nil => simp [emitAll]
  | cons e es ih => rw [afterEvents_cons, ← ih (emit s e) (by simpa using h)]; simp [emitAll, h]

theorem emitAll_of_listener (e : Event) (es : List Event) (s : State) (h : s.nest ≠ []) :
    emitAll (e :: es) s = { waiting := true, left := es, state := emit s e } := by
  cases hn : s.nest with
  | nil => exact absurd hn h
  | cons a b => simp [emitAll, hn]

/-- The rest of a handler step either ends, with all its events emitted and the cell written, or is suspended after its
next event. -/
theorem handlerStep_cases (ctx : EmitterCtx) (h : Handler) (v : Bool) (pending : List Event) (rest : List Handler)
    (k : State → State) (s : State) :
    ((pending = [] ∨ s.nest = []) ∧
      handlerStep ctx h v pending rest k s = k (setPrev (afterEvents s pending) h v)) ∨
    (∃ e left, pending = e :: left ∧ s.nest ≠ [] ∧
      handlerStep ctx h v pending rest k s =
        suspend (emit s e) { ctx := ctx, handler := h, input := v, pending := left, rest := rest }) := by
  by_cases hn : s.nest = []
  · exact .inl ⟨.inr hn, by simp [handlerStep, emitAll_of_no_listener _ _ hn]⟩
  · cases pending with
    | nil => exact .inl ⟨.inl rfl, by simp [handlerStep, emitAll]⟩
    | cons e left => exact .inr ⟨e, left, rfl, hn, by simp [handlerStep, emitAll_of_listener _ _ _ hn]⟩

end Sys2Proof.Machine
end

