-- ==== Sys2Proof/Laws/PerInstr.lean ====
section
/-! SUPPORT. What holds of every instruction as syntax, one lemma per constructor. InputOfRow: the input that presents an
instruction is of the kind of its row of spec/opcode_table.json: an assigned host-op code (spec/30_encoding.md R95), or a
frame of the format's length that begins with the sync byte (R80, R84). -/

namespace Sys2Proof.Laws.InputOfRow

open Machine

/-- The assigned codes (spec/30_encoding.md R95). -/
def hostOpCodes : List Byte :=
  [0x01#8, 0x02#8, 0x03#8, 0x04#8] ++
  [0x10#8, 0x11#8, 0x12#8, 0x13#8, 0x14#8, 0x15#8, 0x16#8, 0x17#8, 0x18#8, 0x19#8, 0x1A#8, 0x1B#8, 0x1C#8, 0x1D#8, 0x1E#8,
   0x1F#8] ++
  [0x20#8, 0x21#8, 0x22#8, 0x23#8, 0x24#8, 0x25#8, 0x26#8, 0x27#8, 0x28#8, 0x29#8, 0x2A#8, 0x2B#8] ++
  [0x30#8, 0x31#8, 0x32#8, 0x40#8]

/-- The length of the frame an instruction stands for: 4 bytes for R4, 8 for W8 and P8 (spec/30_encoding.md R84). -/
def frameLength : Instr → Nat
  | .r4 _ _ _ => 4
  | _ => 8

/-- The input that presents the instruction is of the kind of its row. -/
def Statement (i : Instr) : Prop :=
  match encode i with
  | .command code _ => code ∈ hostOpCodes
  | .frame bytes => bytes.head? = some syncByte ∧ bytes.length = frameLength i

theorem wreg (addr value : Int) : Statement (.wreg addr value) := show _ ∈ hostOpCodes by decide
theorem rreg (addr : Int) : Statement (.rreg addr) := show _ ∈ hostOpCodes by decide
theorem rfld (f : FieldRef) : Statement (.rfld f) := show _ ∈ hostOpCodes by decide
theorem wfld (f : FieldRef) (v : Int) : Statement (.wfld f v) := show _ ∈ hostOpCodes by decide
theorem setMstep (n : Int) : Statement (.setMstep n) := show _ ∈ hostOpCodes by decide
theorem getMstep : Statement .getMstep := show _ ∈ hostOpCodes by decide
theorem setIholddelay (raw : Int) : Statement (.setIholddelay raw) := show _ ∈ hostOpCodes by decide
theorem setIholddelayMs (ms : Rat) : Statement (.setIholddelayMs ms) := show _ ∈ hostOpCodes by decide
theorem getIholddelay : Statement .getIholddelay := show _ ∈ hostOpCodes by decide
theorem getIholddelayMs : Statement .getIholddelayMs := show _ ∈ hostOpCodes by decide
theorem setTpowerdown (raw : Int) : Statement (.setTpowerdown raw) := show _ ∈ hostOpCodes by decide
theorem setTpowerdownMs (ms : Rat) : Statement (.setTpowerdownMs ms) := show _ ∈ hostOpCodes by decide
theorem getTpowerdown : Statement .getTpowerdown := show _ ∈ hostOpCodes by decide
theorem getTpowerdownMs : Statement .getTpowerdownMs := show _ ∈ hostOpCodes by decide
theorem setSgthrs (v : Int) : Statement (.setSgthrs v) := show _ ∈ hostOpCodes by decide
theorem getSgthrs : Statement .getSgthrs := show _ ∈ hostOpCodes by decide
theorem getSgresult : Statement .getSgresult := show _ ∈ hostOpCodes by decide
theorem setTcoolthrs (v : Int) : Statement (.setTcoolthrs v) := show _ ∈ hostOpCodes by decide
theorem getTcoolthrs : Statement .getTcoolthrs := show _ ∈ hostOpCodes by decide
theorem getVersion : Statement .getVersion := show _ ∈ hostOpCodes by decide
theorem csFwd (amps : Rat) : Statement (.csFwd amps) := show _ ∈ hostOpCodes by decide
theorem csInv (scale : Int) (vsense : Bool) : Statement (.csInv scale vsense) := show _ ∈ hostOpCodes by decide
theorem setRms (amps : Rat) : Statement (.setRms amps) := show _ ∈ hostOpCodes by decide
theorem getRms : Statement .getRms := show _ ∈ hostOpCodes by decide
theorem setHoldfrac (f : Rat) : Statement (.setHoldfrac f) := show _ ∈ hostOpCodes by decide
theorem getHoldfrac : Statement .getHoldfrac := show _ ∈ hostOpCodes by decide
theorem setRsense (r : Rat) (internal : Bool) : Statement (.setRsense r internal) := show _ ∈ hostOpCodes by decide
theorem getRsense : Statement .getRsense := show _ ∈ hostOpCodes by decide
theorem setFosc (f : Rat) : Statement (.setFosc f) := show _ ∈ hostOpCodes by decide
theorem getFosc : Statement .getFosc := show _ ∈ hostOpCodes by decide
theorem setNodeaddr (a : Int) : Statement (.setNodeaddr a) := show _ ∈ hostOpCodes by decide
theorem getNodeaddr : Statement .getNodeaddr := show _ ∈ hostOpCodes by decide
theorem check (h : Int) (v : Bool) : Statement (.check h v) := show _ ∈ hostOpCodes by decide
theorem poll : Statement .poll := show _ ∈ hostOpCodes by decide
theorem setup : Statement .setup := show _ ∈ hostOpCodes by decide
theorem edge (src : EdgeSrc) : Statement (.edge src) := show _ ∈ hostOpCodes by decide
theorem w8 (node : NodeAddr) (reg : RegAddr) (data : Word) (crc : Byte) : Statement (.w8 node reg data crc) := ⟨rfl, rfl⟩
theorem r4 (node : NodeAddr) (reg : RegAddr) (crc : Byte) : Statement (.r4 node reg crc) := ⟨rfl, rfl⟩
theorem p8 (reg : RegAddr) (data : Word) (crc : Byte) : Statement (.p8 reg data crc) := ⟨rfl, rfl⟩

end Sys2Proof.Laws.InputOfRow
end

