-- ==== Sys2Proof/Laws/Poll.lean ====
section
/-! SUPPORT. What a poll does where no listener is pending: the reads of each handler's input, and the run of a list of
handlers to its end. -/

namespace Sys2Proof.Machine

theorem SameButPoll.refl (s : State) : SameButPoll s s := by constructor <;> rfl

theorem SameButPoll.trans {s t u : State} (h : SameButPoll s t) (k : SameButPoll t u) : SameButPoll s u := by
  constructor
  exacts [k.phase.trans h.phase, k.node.trans h.node, k.rsense.trans h.rsense,
    k.internalRsense.trans h.internalRsense, k.holdFraction.trans h.holdFraction, k.fosc.trans h.fosc,
    k.rmsTarget.trans h.rmsTarget, k.irqDiag.trans h.irqDiag, k.irqIndex.trans h.irqIndex, k.shadow.trans h.shadow,
    k.params.trans h.params, k.port.trans h.port, k.nest.trans h.nest]

/-- `t` differs from `s` at most in what the acquisition of an input may write: the edge flags and the line. -/
structure SameButInput (s t : State) : Prop where
  rest : SameButPoll s t
  prev : t.prev = s.prev
  stack : t.stack = s.stack
  events : t.events = s.events
  results : t.results = s.results

/-- The reads of some inputs: `t` is `s` after at most `n` read requests. -/
structure AfterReads (s t : State) (n : Nat) : Prop where
  same : SameButInput s t
  frames : ∃ fs, t.txLog = s.txLog ++ fs ∧ fs.length ≤ n ∧ ∀ bs ∈ fs, ∃ reg, bs = buildR4 s.node reg

theorem AfterReads.trans {s t u : State} {m n : Nat} (h : AfterReads s t m) (k : AfterReads t u n) :
    AfterReads s u (m + n) := by
  obtain ⟨⟨r, p, st, e, rs⟩, fs, hf, hl, ha⟩ := h
  obtain ⟨⟨r', p', st', e', rs'⟩, fs', hf', hl', ha'⟩ := k
  refine ⟨⟨r.trans r', p'.trans p, st'.trans st, e'.trans e, rs'.trans rs⟩, fs ++ fs', by rw [hf', hf, List.append_assoc],
    by simp; omega, ?_⟩
  intro bs hb
  rcases List.mem_append.1 hb with hb | hb
  · exact ha bs hb
  · obtain ⟨reg, hr⟩ := ha' bs hb
    exact ⟨reg, by rw [hr, r.node]⟩

theorem AfterReads.mono {s t : State} {m n : Nat} (h : AfterReads s t m) (le : m ≤ n) : AfterReads s t n := by
  obtain ⟨same, fs, hf, hl, ha⟩ := h
  exact ⟨same, fs, hf, hl.trans le, ha⟩

theorem AfterReads.refl (s : State) : AfterReads s s 0 := by
  refine ⟨⟨⟨?_, ?_, ?_, ?_, ?_, ?_, ?_, ?_, ?_, ?_, ?_, ?_, ?_⟩, ?_, ?_, ?_, ?_⟩, [], by simp, by simp, by simp⟩ <;> rfl

theorem memRead_reads (s : State) (reg : RegAddr) : AfterReads s (memRead s reg).state 1 := by
  rcases memRead_gives s reg with h | h
  · rw [h.2.2.2]; exact (AfterReads.refl s).mono (by omega)
  · rw [h.2.2.2]
    refine ⟨⟨⟨?_, ?_, ?_, ?_, ?_, ?_, ?_, ?_, ?_, ?_, ?_, ?_, ?_⟩, ?_, ?_, ?_, ?_⟩, [buildR4 s.node reg], rfl, by simp,
      by simp⟩ <;> rfl

theorem clearFlag_reads (s : State) (e : EdgeSrc) : AfterReads s (clearFlag s e) 0 := by
  cases e <;>
    refine ⟨⟨⟨?_, ?_, ?_, ?_, ?_, ?_, ?_, ?_, ?_, ?_, ?_, ?_, ?_⟩, ?_, ?_, ?_, ?_⟩, [], by simp [clearFlag], by simp, by simp⟩ <;>
    rfl

theorem draws_reads (s : State) (n : Nat) : AfterReads s { s with draws := n } 0 := by
  refine ⟨⟨⟨?_, ?_, ?_, ?_, ?_, ?_, ?_, ?_, ?_, ?_, ?_, ?_, ?_⟩, ?_, ?_, ?_, ?_⟩, [], by simp, by simp, by simp⟩ <;> rfl

theorem statusField_reads (n : FieldName) (snapshot : Option Word) (s : State) :
    AfterReads s (statusField n snapshot s).1.state 1 := by
  unfold statusField
  split
  · exact memRead_reads s _
  · split
    · exact (AfterReads.refl s).mono (by omega)
    · exact memRead_reads s _

theorem acquire_reads (h : Handler) (snapshot : Option Word) (s : State) :
    AfterReads s (acquire h snapshot s).state (inputReads h) := by
  cases h
  case diag =>
    simp only [acquire, diagIn, inputReads]
    split
    · exact (clearFlag_reads s .diag).mono (by omega)
    · split
      · exact memRead_reads s _
      · exact (draws_reads s _).mono (by omega)
  case index =>
    simp only [acquire, indexIn, inputReads]
    split
    · exact clearFlag_reads s .index
    · split
      · exact AfterReads.refl s
      · exact draws_reads s _
  case nt => exact (statusField_reads .otpw snapshot s).trans (statusField_reads .ot _ _)
  all_goals exact statusField_reads _ _ _

/-- With no listener pending, a poll runs the handler at the head of its list to the end and goes on with the rest. -/
theorem runHandlers_cons_of_no_listener (h : Handler) (rest : List Handler) (ctx : EmitterCtx) (s : State)
    (hn : s.nest = []) :
    runHandlers (h :: rest) ctx s =
      let g := acquire h ctx.snapshot s
      let es := stepEvents h (s.prev.get h) g.value
      runHandlers rest (withSample ctx g es) (setPrev (afterEvents g.state es) h g.value) := by
  have r := acquire_reads h ctx.snapshot s
  have n : (acquire h ctx.snapshot s).state.nest = [] := r.same.rest.nest.trans hn
  simp [runHandlers, handlerStep, emitAll_of_no_listener _ _ n, r.same.prev]

@[simp] theorem HandlerFile.get_set_self (p : HandlerFile) (h : Handler) (v : Bool) : (p.set h v).get h = v := by
  cases h <;> rfl

theorem HandlerFile.get_set_of_ne (p : HandlerFile) (h k : Handler) (v : Bool) (hk : k ≠ h) :
    (p.set h v).get k = p.get k := by
  cases h <;> cases k <;> first | rfl | exact absurd rfl hk

/-- What the handlers of a poll with no listener pending leave: the operation ends, every handler's cell holds its input,
the events of the changes have been emitted in order, and beside that only the reads were made. -/
structure PollRun (hs : List Handler) (ctx : EmitterCtx) (s : State) (v : Handler → Bool) (ctx' : EmitterCtx)
    (s' : State) : Prop where
  ends : runHandlers hs ctx s = finishEmitter ctx' s'
  same : SameButPoll s s'
  stack : s'.stack = s.stack
  results : s'.results = s.results
  emitter : ctx'.emitter = ctx.emitter
  events : s'.events = s.events ++ hs.flatMap fun h => stepEvents h (s.prev.get h) (v h)
  reported : ctx'.events = ctx.events ++ hs.flatMap fun h => stepEvents h (s.prev.get h) (v h)
  stored : ∀ h ∈ hs, s'.prev.get h = v h
  kept : ∀ h, h ∉ hs → s'.prev.get h = s.prev.get h
  frames : ∃ fs, s'.txLog = s.txLog ++ fs ∧ fs.length ≤ totalReads hs ∧ ∀ bs ∈ fs, ∃ reg, bs = buildR4 s.node reg

theorem runHandlers_of_no_listener (hs : List Handler) (nodup : hs.Nodup) (ctx : EmitterCtx) (s : State)
    (hn : s.nest = []) : ∃ v ctx' s', PollRun hs ctx s v ctx' s' := by
  induction hs generalizing ctx s with
  | nil =>
    exact ⟨fun _ => false, ctx, s, rfl, .refl s, rfl, rfl, rfl, by simp, by simp, by simp, by simp, [], by simp, by simp,
      by simp⟩
  | cons h rest ih =>
    obtain ⟨hmem, hrest⟩ := List.nodup_cons.1 nodup
    have r := acquire_reads h ctx.snapshot s
    have first := runHandlers_cons_of_no_listener h rest ctx s hn
    simp only at first
    generalize acquire h ctx.snapshot s = g at *
    generalize hes : stepEvents h (s.prev.get h) g.value = es at *
    have sb : SameButPoll s (setPrev (afterEvents g.state es) h g.value) := by
      obtain ⟨a, b, c, d, e, f, i, j, k, l, m, n, o⟩ := r.same.rest
      constructor <;> simp [afterEvents, setPrev, *]
    obtain ⟨v, ctx', s', p⟩ := ih hrest (withSample ctx g es) (setPrev (afterEvents g.state es) h g.value) (sb.nest.trans hn)
    have hne : ∀ k ∈ rest, k ≠ h := fun k hk e => hmem (e ▸ hk)
    have later :
        (rest.flatMap fun k => stepEvents k ((setPrev (afterEvents g.state es) h g.value).prev.get k) (v k)) =
          rest.flatMap fun k => stepEvents k (s.prev.get k) (if k = h then g.value else v k) := by
      rw [List.flatMap_def, List.flatMap_def]
      congr 1
      apply List.map_congr_left
      intro k hk
      simp [setPrev, afterEvents, r.same.prev, HandlerFile.get_set_of_ne _ _ _ _ (hne k hk), hne k hk]
    refine ⟨fun k => if k = h then g.value else v k, ctx', s', first.trans p.ends, sb.trans p.same, ?_, ?_, ?_, ?_, ?_, ?_,
      ?_, ?_⟩
    · rw [p.stack]; simp [setPrev, afterEvents, r.same.stack]
    · rw [p.results]; simp [setPrev, afterEvents, r.same.results]
    · rw [p.emitter]; rfl
    · rw [p.events, later]; simp [setPrev, afterEvents, r.same.events, hes]
    · rw [p.reported, later]; simp [withSample, hes]
    · intro k hk
      by_cases e : k = h
      · subst e; rw [p.kept k hmem]; simp [setPrev]
      · rw [p.stored k (by simpa [e] using hk)]; simp [e]
    · intro k hk
      simp at hk
      rw [p.kept k hk.2]; simp [setPrev, HandlerFile.get_set_of_ne _ _ _ _ hk.1, afterEvents, r.same.prev]
    · obtain ⟨fs, e, l, a⟩ := r.frames
      obtain ⟨fs', e', l', a'⟩ := p.frames
      refine ⟨fs ++ fs', by rw [e']; simp [setPrev, afterEvents, e], by simp [totalReads] at *; omega, ?_⟩
      intro bs hb
      rcases List.mem_append.1 hb with hb | hb
      · exact a bs hb
      · obtain ⟨reg, e⟩ := a' bs hb; exact ⟨reg, by rw [e, sb.node]⟩

/-! ### The run of a poll, handler by handler -/

theorem stepEvents_eq (h : Handler) (p v : Bool) : stepEvents h p v = if v = p then [] else changeEvents h v := by
  cases h <;> cases p <;> cases v <;> rfl

theorem stepEvents_eq_changeOn (s : State) (h : Handler) (v : Bool) : stepEvents h (s.prev.get h) v = changeOn s h v :=
  stepEvents_eq h _ v

theorem setPrev_afterEvents (s : State) (h : Handler) (v : Bool) :
    setPrev (afterEvents s (changeOn s h v)) h v = afterStep s h v := rfl

theorem statusField_gives (n : FieldName) (snapshot : Option Word) (s : State) :
    StatusGives n snapshot s (statusField n snapshot s).1.value (statusField n snapshot s).1.ok
      (statusField n snapshot s).2 (statusField n snapshot s).1.state := by
  unfold StatusGives statusField
  cases s.params.pollSnapshot with
  | perField => exact ⟨rfl, _, memRead_gives s _, rfl⟩
  | single =>
    cases snapshot with
    | none => exact ⟨_, rfl, rfl, .inr ⟨rfl, memRead_gives s _⟩⟩
    | some w => exact ⟨w, rfl, rfl, .inl ⟨rfl, rfl, rfl⟩⟩

theorem bne_zero (x : Int) : (x != 0) = decide (x ≠ 0) := by by_cases h : x = 0 <;> simp [h]

theorem acquire_gives (h : Handler) (snapshot : Option Word) (s : State) :
    InputGives h snapshot s (acquire h snapshot s).value (acquire h snapshot s).ok (acquire h snapshot s).snapshot
      (acquire h snapshot s).state := by
  cases h
  case diag =>
    by_cases i : s.irqDiag = true
    · simp [InputGives, acquire, diagIn, i, flagOf, clearFlag]
    · cases p : s.params.diagPollSource with
      | register =>
        have r := memRead_gives s (fieldAddr (field s .diag))
        simp only [InputGives, acquire, diagIn, i, p, readNamed, readField]
        exact ⟨rfl, _, r, bne_zero _⟩
      | pin =>
        simp only [InputGives, acquire, diagIn, i, p]
        exact ⟨rfl, rfl, _, _, rfl, rfl⟩
  case index =>
    by_cases i : s.irqIndex = true
    · simp [InputGives, acquire, indexIn, i, flagOf, clearFlag]
    · cases p : s.params.indexPollSource with
      | constFalse => simp [InputGives, acquire, indexIn, i, p]
      | pin =>
        simp only [InputGives, acquire, indexIn, i, p]
        exact ⟨rfl, rfl, _, _, rfl, rfl⟩
  case nt =>
    exact ⟨_, _, _, _, _, _, statusField_gives .otpw snapshot s, statusField_gives .ot _ _,
      by rw [Bool.decide_and]; rfl, rfl⟩
  all_goals exact ⟨_, statusField_gives _ snapshot s, bne_zero _⟩

/-- With no listener pending the handlers left run to their end. -/
theorem runHandlers_gives (hs : List Handler) (ctx : EmitterCtx) (s : State) (hn : s.nest = []) :
    ∃ ctx' t, RunGives hs ctx s ctx' t ∧ ctx'.emitter = ctx.emitter ∧ runHandlers hs ctx s = finishEmitter ctx' t := by
  induction hs generalizing ctx s with
  | nil => exact ⟨ctx, s, ⟨rfl, rfl⟩, rfl, rfl⟩
  | cons h rest ih =>
    have r := acquire_reads h ctx.snapshot s
    have n : (acquire h ctx.snapshot s).state.nest = [] := r.same.rest.nest.trans hn
    obtain ⟨ctx', t, run, emitter, ends⟩ := ih _ (afterStep (acquire h ctx.snapshot s).state h (acquire h ctx.snapshot s).value) n
    refine ⟨ctx', t, ⟨_, _, _, _, acquire_gives h ctx.snapshot s, run⟩, emitter, ?_⟩
    rw [← ends]
    simp only [runHandlers, handlerStep, emitAll_of_no_listener _ _ n, stepEvents_eq_changeOn]
    rfl

/-- With a listener pending the handlers left run until the first event, or to their end without one. -/
theorem runHandlers_goes_on (hs : List Handler) (ctx : EmitterCtx) (s : State) (hn : s.nest ≠ [])
    (poll : ctx.emitter = .poll) : PollGoesOn hs ctx s (runHandlers hs ctx s) := by
  induction hs generalizing ctx s with
  | nil => exact .inl ⟨ctx, s, ⟨rfl, rfl⟩, rfl, by simp [runHandlers, finishEmitter, pollEnds, poll, emitterInstr, emitterOk]⟩
  | cons h rest ih =>
    have r := acquire_reads h ctx.snapshot s
    have gives := acquire_gives h ctx.snapshot s
    have unfolded : runHandlers (h :: rest) ctx s =
        let g := acquire h ctx.snapshot s
        let ctx₁ := afterInput ctx g.ok g.snapshot (changeOn g.state h g.value)
        handlerStep ctx₁ h g.value (changeOn g.state h g.value) rest (runHandlers rest ctx₁) g.state := by
      simp only [runHandlers, stepEvents_eq_changeOn]; rfl
    rw [unfolded]
    generalize acquire h ctx.snapshot s = g at *
    have n : g.state.nest ≠ [] := fun e => hn (r.same.rest.nest.symm.trans e)
    cases change : changeOn g.state h g.value with
    | cons e left =>
      refine .inr ⟨[], h, rest, ctx, s, _, _, _, _, e, left, rfl, ⟨rfl, rfl⟩, rfl, gives, change, ?_⟩
      simp [handlerStep, emitAll_of_listener _ _ _ n, suspend, emit, change]
    | nil =>
      have same : (afterStep g.state h g.value).events = s.events := by simp [afterStep, change, r.same.events]
      have goes := ih (afterInput ctx g.ok g.snapshot (changeOn g.state h g.value)) (afterStep g.state h g.value) n poll
      have next : handlerStep (afterInput ctx g.ok g.snapshot (changeOn g.state h g.value)) h g.value [] rest
          (runHandlers rest (afterInput ctx g.ok g.snapshot (changeOn g.state h g.value))) g.state =
          runHandlers rest (afterInput ctx g.ok g.snapshot (changeOn g.state h g.value)) (afterStep g.state h g.value) := by
        simp [handlerStep, emitAll, afterStep, setPrev, change]
      simp only [change] at next goes ⊢
      rw [next]
      rcases goes with ⟨ctx', u, run, events, ends⟩ | ⟨before, k, after, ctx₁, s₁, v, ok, sn, u, e, left, hs, run, events, rest⟩
      · exact .inl ⟨ctx', u, ⟨_, _, _, _, gives, by rw [change]; exact run⟩, events.trans same, ends⟩
      · exact .inr ⟨h :: before, k, after, ctx₁, s₁, v, ok, sn, u, e, left, by rw [hs]; rfl,
          ⟨_, _, _, _, gives, by rw [change]; exact run⟩, events.trans same, rest⟩

end Sys2Proof.Machine
end

