-- ==== Sys2Proof/Laws/Reads.lean ====
section
/-! SUPPORT. The reads that a run of handlers makes over the line, the AND of their `ok` bits, and the edges taken with them. -/

namespace Sys2Proof.Machine

/-! ### The reads of a poll over the line -/

theorem ReadsMade.refl (s : State) : ReadsMade s s [] := ⟨by simp, by simp, by simp⟩

theorem ReadsMade.trans {s t u : State} {xs ys : List (State × RegAddr)} (h : ReadsMade s t xs) (k : ReadsMade t u ys)
    (node : t.node = s.node) : ReadsMade s u (xs ++ ys) := by
  refine ⟨by simp [k.sent, h.sent, node], by simp [k.taken, h.taken], ?_⟩
  intro i r hi
  by_cases lt : i < xs.length
  · rw [List.getElem?_append_left lt] at hi
    rw [List.take_append_of_le_length lt.le]
    exact h.each i r hi
  · push Not at lt
    rw [List.getElem?_append_right lt] at hi
    obtain ⟨n, tx, w⟩ := k.each _ r hi
    refine ⟨n.trans node, ?_, ?_⟩
    · rw [tx, h.sent, List.take_append, List.take_of_length_le lt]; simp [node]
    · rw [w, h.taken, List.drop_drop, Nat.add_sub_cancel' lt]

/-- The edges inside the first `n` transactions from `s`. -/
def edgesOf (s : State) (n : Nat) : List EdgeSrc := (s.wire.take n).flatMap (·.edges)

theorem edgesTaken_eq {s t : State} {reads : List (State × RegAddr)} (h : ReadsMade s t reads) :
    edgesTaken s t = edgesOf s reads.length := by
  simp [edgesTaken, edgesOf, h.sent]

theorem edgesTaken_trans {s t u : State} {xs ys : List (State × RegAddr)} (h : ReadsMade s t xs) (k : ReadsMade t u ys)
    (node : t.node = s.node) : edgesTaken s u = edgesTaken s t ++ edgesTaken t u := by
  rw [edgesTaken_eq h, edgesTaken_eq k, edgesTaken_eq (h.trans k node)]
  simp [edgesOf, h.taken, List.take_add]

/-- `t` is `s` after the reads `reads` and nothing else: only the line, the free values and the edges inside it. -/
structure AfterLine (s t : State) (reads : List (State × RegAddr)) : Prop where
  same : SameButInput s t
  made : ReadsMade s t reads
  diag : t.diagFlag = (s.diagFlag || (edgesTaken s t).contains .diag)
  index : t.indexFlag = (s.indexFlag || (edgesTaken s t).contains .index)

theorem AfterLine.refl (s : State) : AfterLine s s [] :=
  ⟨(AfterReads.refl s).same, .refl s, by simp [edgesTaken], by simp [edgesTaken]⟩

theorem AfterLine.draws (s : State) (n : Nat) : AfterLine s { s with draws := n } [] :=
  ⟨(draws_reads s n).same, ⟨by simp, by simp, by simp⟩, by simp [edgesTaken], by simp [edgesTaken]⟩

theorem SameButInput.trans {s t u : State} (h : SameButInput s t) (k : SameButInput t u) : SameButInput s u :=
  ⟨h.rest.trans k.rest, k.prev.trans h.prev, k.stack.trans h.stack, k.events.trans h.events, k.results.trans h.results⟩

theorem AfterLine.trans {s t u : State} {xs ys : List (State × RegAddr)} (h : AfterLine s t xs) (k : AfterLine t u ys) :
    AfterLine s u (xs ++ ys) := by
  have node := h.same.rest.node
  have edges := edgesTaken_trans h.made k.made node
  exact ⟨h.same.trans k.same, h.made.trans k.made node, by rw [k.diag, h.diag, edges, List.contains_append, Bool.or_assoc],
    by rw [k.index, h.index, edges, List.contains_append, Bool.or_assoc]⟩

/-- What a read does to the line: it reads the shadow and sends nothing, or it makes one read there. -/
theorem ReadGives.line {s t : State} {reg : RegAddr} {w : Word} {ok : Bool} (h : ReadGives s reg w ok t) :
    ∃ reads, AfterLine s t reads ∧ reads.length ≤ 1 ∧ (∀ r ∈ reads, r.2 = reg) ∧ ok = reads.all readOk := by
  rcases h with ⟨-, -, rfl, rfl⟩ | ⟨-, rfl, -, rfl⟩
  · exact ⟨[], .refl _, by simp, by simp, rfl⟩
  · refine ⟨[(s, reg)], ⟨?_, ⟨by simp [afterFrames], by simp [afterFrames], ?_⟩, ?_, ?_⟩, by simp, by simp, by simp [readOk]⟩
    · refine ⟨⟨?_, ?_, ?_, ?_, ?_, ?_, ?_, ?_, ?_, ?_, ?_, ?_, ?_⟩, ?_, ?_, ?_, ?_⟩ <;> rfl
    · intro k r hk
      cases k with
      | zero => simp at hk; subst hk; simp
      | succ k => simp at hk
    · simp [afterFrames, edgesTaken]
    · simp [afterFrames, edgesTaken]

theorem StatusGives.line {n : FieldName} {snapshot snapshot' : Option Word} {s t : State} {v : Int} {ok : Bool}
    (h : StatusGives n snapshot s v ok snapshot' t) :
    ∃ reads, AfterLine s t reads ∧ reads.length ≤ 1 ∧ ok = reads.all readOk := by
  unfold StatusGives at h
  split at h
  · obtain ⟨-, w, read, -⟩ := h
    obtain ⟨reads, a, b, -, c⟩ := read.line
    exact ⟨reads, a, b, c⟩
  · obtain ⟨w, -, -, ⟨-, rfl, rfl⟩ | ⟨-, read⟩⟩ := h
    · exact ⟨[], .refl _, by simp, rfl⟩
    · obtain ⟨reads, a, b, -, c⟩ := read.line
      exact ⟨reads, a, b, c⟩

/-- The input of a handler is got from reads alone, or by taking a flag without any. -/
theorem InputGives.cases {h : Handler} {snapshot snapshot' : Option Word} {s t : State} {v ok : Bool}
    (gives : InputGives h snapshot s v ok snapshot' t) :
    (∃ reads, AfterLine s t reads ∧ reads.length ≤ inputReads h ∧ ok = reads.all readOk) ∨
    (h = .diag ∧ s.irqDiag = true ∧ ok = true ∧ t = { s with diagFlag := false }) ∨
    (h = .index ∧ s.irqIndex = true ∧ ok = true ∧ t = { s with indexFlag := false }) := by
  cases h
  case diag =>
    obtain ⟨-, g⟩ := gives
    split at g
    · rename_i i; exact .inr (.inl ⟨rfl, i, g.2.1, g.2.2⟩)
    · split at g
      · obtain ⟨w, read, -⟩ := g
        obtain ⟨reads, a, b, -, c⟩ := read.line
        exact .inl ⟨reads, a, b, c⟩
      · obtain ⟨rfl, k, n, -, rfl⟩ := g; exact .inl ⟨[], .draws s n, by simp, rfl⟩
  case index =>
    obtain ⟨-, rfl, g⟩ := gives
    split at g
    · rename_i i; exact .inr (.inr ⟨rfl, i, rfl, g.2⟩)
    · split at g
      · obtain ⟨-, rfl⟩ := g; exact .inl ⟨[], .refl _, by simp, rfl⟩
      · obtain ⟨k, n, -, rfl⟩ := g; exact .inl ⟨[], .draws s n, by simp, rfl⟩
  case nt =>
    obtain ⟨_, ok₁, _, u, _, ok₂, first, second, -, rfl⟩ := gives
    obtain ⟨xs, a, b, rfl⟩ := first.line
    obtain ⟨ys, c, d, rfl⟩ := second.line
    exact .inl ⟨xs ++ ys, a.trans c, by simp [inputReads]; omega, by simp⟩
  all_goals
    obtain ⟨_, read, -⟩ := gives
    obtain ⟨reads, a, b, c⟩ := read.line
    exact .inl ⟨reads, a, b, c⟩

/-- What a run of handlers does beside their steps: it makes at most their reads, of whose `ok` bits its `ok` is the AND, and
it takes the flags of the interrupt paths. -/
structure RunReads (hs : List Handler) (ctx : EmitterCtx) (s : State) (ctx' : EmitterCtx) (t : State)
    (reads : List (State × RegAddr)) : Prop where
  same : SameButPoll s t
  stack : t.stack = s.stack
  results : t.results = s.results
  events : ∃ es, t.events = s.events ++ es ∧ ctx'.events = ctx.events ++ es
  made : ReadsMade s t reads
  few : reads.length ≤ totalReads hs
  ok : ctx'.ok = (ctx.ok && reads.all readOk)
  emitter : ctx'.emitter = ctx.emitter
  diag : s.irqDiag = false ∨ .diag ∉ hs → t.diagFlag = (s.diagFlag || (edgesTaken s t).contains .diag)
  index : s.irqIndex = false ∨ .index ∉ hs → t.indexFlag = (s.indexFlag || (edgesTaken s t).contains .index)
  diagSet : t.diagFlag = true → s.diagFlag = true ∨ (edgesTaken s t).contains .diag = true
  indexSet : t.indexFlag = true → s.indexFlag = true ∨ (edgesTaken s t).contains .index = true

theorem afterStep_same (s : State) (h : Handler) (v : Bool) : SameButPoll s (afterStep s h v) := by constructor <;> rfl

theorem RunGives.reads {hs : List Handler} {ctx ctx' : EmitterCtx} {s t : State} (run : RunGives hs ctx s ctx' t) :
    ∃ reads, RunReads hs ctx s ctx' t reads := by
  induction hs generalizing ctx s with
  | nil =>
    obtain ⟨rfl, rfl⟩ := run
    exact ⟨[], .refl t, rfl, rfl, ⟨[], by simp, by simp⟩, .refl t, by simp, by simp, rfl, by simp [edgesTaken],
      by simp [edgesTaken], .inl, .inl⟩
  | cons h rest ih =>
    obtain ⟨v, ok, snapshot, u, gives, run⟩ := run
    obtain ⟨ys, r⟩ := ih run
    obtain ⟨es, hes, hes'⟩ := r.events
    -- what comes after the step, seen from the state before it
    have made : ReadsMade u t ys := ⟨r.made.sent, r.made.taken, r.made.each⟩
    have edges : edgesTaken u t = edgesTaken (afterStep u h v) t := rfl
    have same := (afterStep_same u h v).trans r.same
    rcases gives.cases with ⟨xs, a, few, rfl⟩ | ⟨rfl, i, rfl, rfl⟩ | ⟨rfl, i, rfl, rfl⟩
    · have node := a.same.rest.node
      have sum := edgesTaken_trans a.made made node
      refine ⟨xs ++ ys, a.same.rest.trans same, r.stack.trans a.same.stack, r.results.trans a.same.results,
        ⟨changeOn u h v ++ es, by rw [hes]; simp [afterStep, a.same.events], by rw [hes']; simp [afterInput]⟩,
        a.made.trans made node, by have := r.few; simp [totalReads] at *; omega,
        by rw [r.ok]; simp [afterInput, Bool.and_assoc], r.emitter, ?_, ?_, ?_, ?_⟩
      · intro c
        rw [r.diag (by rcases c with c | c; exacts [.inl (a.same.rest.irqDiag.trans c), .inr fun m => c (.tail _ m)]), sum,
          List.contains_append, ← edges]
        simp [afterStep, a.diag, Bool.or_assoc]
      · intro c
        rw [r.index (by rcases c with c | c; exacts [.inl (a.same.rest.irqIndex.trans c), .inr fun m => c (.tail _ m)]),
          sum, List.contains_append, ← edges]
        simp [afterStep, a.index, Bool.or_assoc]
      · intro c
        rw [sum, List.contains_append]
        rcases r.diagSet c with c | c
        · simp only [afterStep, a.diag, Bool.or_eq_true] at c
          rcases c with c | c
          · exact .inl c
          · exact .inr (by rw [c]; rfl)
        · rw [← edges] at c; exact .inr (by rw [c]; simp)
      · intro c
        rw [sum, List.contains_append]
        rcases r.indexSet c with c | c
        · simp only [afterStep, a.index, Bool.or_eq_true] at c
          rcases c with c | c
          · exact .inl c
          · exact .inr (by rw [c]; rfl)
        · rw [← edges] at c; exact .inr (by rw [c]; simp)
    · refine ⟨ys, ?_, r.stack, r.results, ⟨changeOn s .diag v ++ es, by rw [hes]; simp [afterStep]; rfl,
          by rw [hes']; simp [afterInput]; rfl⟩,
        ⟨made.sent, made.taken, made.each⟩, by have := r.few; simp [totalReads] at *; omega, 
        by rw [r.ok]; simp [afterInput], r.emitter, ?_, ?_, ?_, ?_⟩
      · obtain ⟨a, b, c, d, e, f, g, j, k, l, m, n, o⟩ := r.same; constructor <;> assumption
      · rintro (c | c)
        · rw [i] at c; cases c
        · simp at c
      · intro c
        exact r.index (by rcases c with c | c; exacts [.inl c, .inr fun m => c (.tail _ m)])
      · intro c
        rcases r.diagSet c with c | c
        · simp [afterStep] at c
        · exact .inr c
      · exact r.indexSet
    · refine ⟨ys, ?_, r.stack, r.results, ⟨changeOn s .index v ++ es, by rw [hes]; simp [afterStep]; rfl,
          by rw [hes']; simp [afterInput]; rfl⟩,
        ⟨made.sent, made.taken, made.each⟩, by have := r.few; simp [totalReads] at *; omega, 
        by rw [r.ok]; simp [afterInput], r.emitter, ?_, ?_, ?_, ?_⟩
      · obtain ⟨a, b, c, d, e, f, g, j, k, l, m, n, o⟩ := r.same; constructor <;> assumption
      · intro c
        exact r.diag (by rcases c with c | c; exacts [.inl c, .inr fun m => c (.tail _ m)])
      · rintro (c | c)
        · rw [i] at c; cases c
        · simp at c
      · exact r.diagSet
      · intro c
        rcases r.indexSet c with c | c
        · simp [afterStep] at c
        · exact .inr c

end Sys2Proof.Machine
end

