-- ==== Sys2Proof/Tests/Slice0.lean ====
section
/-! SUPPORT. Tests on small states. Expected values are those of spec/95_test_vectors.md (named by their vector) or of the
rule cited, worked out by hand. -/

namespace Sys2Proof.Tests

open Machine

-- A theorem by `decide +kernel` waits for those before it: one after the other they need no threads to wait in.
set_option Elab.async false

/-! ### Helpers -/

/-- The state after one instruction. -/
def after (i : Instr) (s : State) : State :=
  match exec i s with
  | .next t => t
  | _ => s

/-- The state after one step. -/
def stepped (s : State) : State :=
  match step s with
  | .next t => t
  | _ => s

/-- The last entry of the result log. -/
def lastResult (s : State) : Option OpResult := s.results.getLast?.map (·.result)

/-- A healthy read of `reg`: the echo, then the chip's reply with the word `w`. -/
def reply (reg : RegAddr) (w : Word) : WireAnswer := { rx := .reply (buildP8 reg w), edges := [] }

/-- A healthy write. -/
def echo : WireAnswer := { rx := .echo, edges := [] }

/-- The bytes listed and nothing else. -/
def raw (bs : List Byte) : WireAnswer := { rx := .bytes bs, edges := [] }

/-- The vectors' start state (spec/95_test_vectors.md section 0): the defaults, SETUP issued, and the answers of WIRE. -/
def start (wire : List WireAnswer) : State := { State.reset with phase := .running, wire := wire }

/-- The start state with both interrupt sources attached. -/
def startIrq (wire : List WireAnswer) : State := { start wire with irqDiag := true, irqIndex := true }

/-- The start state in shadow mode. -/
def startShadow (wire : List WireAnswer) : State :=
  { start wire with params := { defaultParams with readback := .shadow } }

/-! ### Frames -/

-- 30_encoding R83
theorem test_crc8 :
    (crc8 [0x05#8, 0x00#8, 0x00#8] = 0x48#8 ∧ crc8 [0x01#8] = 0x89#8 ∧ crc8 [0x80#8] = 0x07#8 ∧ crc8 [0xFF#8] = 0xF3#8) ∧
    crc8 [0x05#8, 0x00#8, 0x90#8, 0x00#8, 0x01#8, 0x1F#8, 0x10#8] = 0xDF#8 := by decide +kernel

-- 95 section 3.3: node 3, 0x6C, 0x10020053
theorem test_buildW8 :
    buildW8 3#2 0x6C#7 0x10020053#32 = [0x05#8, 0x03#8, 0xEC#8, 0x10#8, 0x02#8, 0x00#8, 0x53#8, 0x80#8] := by decide +kernel

-- 95 section 3.2: RREG 0x6F at node 3
theorem test_buildR4 : buildR4 3#2 0x6F#7 = [0x05#8, 0x03#8, 0x6F#8, 0x69#8] := by decide +kernel

-- 95 section 3.4: 0x22, 0xABFFFFFF
theorem test_buildP8 :
    buildP8 0x22#7 0xABFFFFFF#32 = [0x05#8, 0xFF#8, 0x22#8, 0xAB#8, 0xFF#8, 0xFF#8, 0xFF#8, 0x4F#8] := by decide +kernel

/-! ### Well-formedness: a term that each check refuses -/

theorem test_wellFormed_refuses :
    [Instr.wreg 128 0, .wreg 0x10 4294967296, .rreg (-1), .rfld (.literal ⟨128, 0, 8, false⟩),
      .rfld (.literal ⟨0x22, 0, 0, false⟩), .wfld (.literal ⟨0x22, 32, 1, false⟩) 1,
      .wfld (.literal ⟨0x22, 30, 4, false⟩) 1, .setIholddelay (-1), .setTpowerdown (-1), .setSgthrs 256,
      .setTcoolthrs (-1), .csInv 32 false, .setNodeaddr 4, .check 9 true].any wellFormed = false := by decide +kernel

theorem test_wellFormed_refuses_rationals :
    [Instr.setIholddelayMs (-1), .setTpowerdownMs (-1), .csFwd (-1), .setRms (-1), .setHoldfrac (3 / 2), .setHoldfrac (-1),
      .setRsense 0 false, .setFosc 0].any wellFormed = false := by decide +kernel

theorem test_wellFormed_refuses_frames :
    [Instr.w8 0#2 0#7 0#32 0x00#8, .r4 0#2 0#7 0x00#8, .p8 0x6F#7 0x101#32 0xF8#8].any wellFormed = false := by decide +kernel

/-! ### Decoding: the words written out from the spec's encodings -/

/-- A command with its operands. -/
def cmd (code : Byte) (args : List Operand) : Option Instr := (decode (.command code args)).toOption

theorem test_decode_transport :
    cmd 0x01#8 [.num 0x40, .num 100] = some (.wreg 0x40 100) ∧ cmd 0x02#8 [.num 0x6F] = some (.rreg 0x6F) ∧
    cmd 0x03#8 [.field (.named .irun)] = some (.rfld (.named .irun)) ∧
    cmd 0x04#8 [.field (.literal ⟨0x22, 4, 4, true⟩), .num (-1)] = some (.wfld (.literal ⟨0x22, 4, 4, true⟩) (-1)) := by
  decide +kernel

theorem test_decode_chip :
    cmd 0x10#8 [.num 16] = some (.setMstep 16) ∧ cmd 0x11#8 [] = some .getMstep ∧
    cmd 0x12#8 [.num 4] = some (.setIholddelay 4) ∧ cmd 0x13#8 [.num 100] = some (.setIholddelayMs 100) ∧
    cmd 0x14#8 [] = some .getIholddelay ∧ cmd 0x15#8 [] = some .getIholddelayMs ∧
    cmd 0x16#8 [.num 20] = some (.setTpowerdown 20) ∧ cmd 0x17#8 [.num 437] = some (.setTpowerdownMs 437) ∧
    cmd 0x18#8 [] = some .getTpowerdown ∧ cmd 0x19#8 [] = some .getTpowerdownMs := by decide +kernel

theorem test_decode_stall :
    cmd 0x1A#8 [.num 100] = some (.setSgthrs 100) ∧ cmd 0x1B#8 [] = some .getSgthrs ∧ cmd 0x1C#8 [] = some .getSgresult ∧
    cmd 0x1D#8 [.num 256] = some (.setTcoolthrs 256) ∧ cmd 0x1E#8 [] = some .getTcoolthrs ∧
    cmd 0x1F#8 [] = some .getVersion := by decide +kernel

theorem test_decode_quantizer :
    cmd 0x20#8 [.num 1] = some (.csFwd 1) ∧ cmd 0x21#8 [.num 17, .flag false] = some (.csInv 17 false) ∧
    cmd 0x22#8 [.num 1] = some (.setRms 1) ∧ cmd 0x23#8 [] = some .getRms ∧
    cmd 0x24#8 [.num (1 / 2)] = some (.setHoldfrac (1 / 2)) ∧ cmd 0x25#8 [] = some .getHoldfrac := by decide +kernel

theorem test_decode_local :
    cmd 0x26#8 [.num (11 / 100), .flag false] = some (.setRsense (11 / 100) false) ∧ cmd 0x27#8 [] = some .getRsense ∧
    cmd 0x28#8 [.num 12000000] = some (.setFosc 12000000) ∧ cmd 0x29#8 [] = some .getFosc ∧
    cmd 0x2A#8 [.num 3] = some (.setNodeaddr 3) ∧ cmd 0x2B#8 [] = some .getNodeaddr := by decide +kernel

theorem test_decode_edges :
    cmd 0x30#8 [.num 5, .flag true] = some (.check 5 true) ∧ cmd 0x31#8 [] = some .poll ∧ cmd 0x32#8 [] = some .setup ∧
    cmd 0x40#8 [.source .index] = some (.edge .index) := by decide +kernel

/-- The instruction of a frame. -/
def frame (bs : List Byte) : Option Instr := (decode (.frame bs)).toOption

-- 95 sections 3.2 to 3.4
theorem test_decode_frames :
    frame [0x05#8, 0x03#8, 0xEC#8, 0x10#8, 0x02#8, 0x00#8, 0x53#8, 0x80#8] = some (.w8 3#2 0x6C#7 0x10020053#32 0x80#8) ∧
    frame [0x05#8, 0x03#8, 0x6F#8, 0x69#8] = some (.r4 3#2 0x6F#7 0x69#8) ∧
    frame [0x05#8, 0xFF#8, 0x6F#8, 0x00#8, 0x00#8, 0x01#8, 0x01#8, 0xF9#8] = some (.p8 0x6F#7 0x101#32 0xF9#8) := by decide +kernel

theorem test_decode_table_words :
    decodeTableWord 8 0x01 = some (.wreg 0 0) ∧ decodeTableWord 8 0x28 = some (.setFosc 0) ∧
    decodeTableWord 32 0x05036F69 = some (.r4 3#2 0x6F#7 0x69#8) ∧
    decodeTableWord 64 0x05FF6F00000101F9 = some (.p8 0x6F#7 0x101#32 0xF9#8) := by decide +kernel

-- F1, F2, and operands of another kind or number (60_exceptions R261)
theorem test_decode_rejects :
    (decode (.command 0x05#8 []) = .error .badOpcode ∧ decode (.command 0x33#8 []) = .error .badOpcode) ∧
    decode (.command 0x26#8 [.num 1, .num 1]) = .error .badOperand ∧ decode (.command 0x31#8 [.num 1]) = .error .badOperand ∧
    decode (.frame [0x15#8, 0x00#8, 0x6F#8, 0x84#8]) = .error .badOpcode := by
  refine ⟨⟨rfl, rfl⟩, rfl, rfl, rfl⟩

/-! ### FRM -/

-- S1, T14
theorem test_wreg :
    (after (.wreg 0x40 0x64) (start [echo])).txLog = [[0x05#8, 0x00#8, 0xC0#8, 0x00#8, 0x00#8, 0x00#8, 0x64#8, 0x7F#8]] ∧
    lastResult (after (.wreg 0x40 0x64) (start [echo])) = some (.completed .none none none) := by decide +kernel

-- F3, F4
theorem test_wreg_refused :
    lastResult (after (.wreg 128 0) (start [])) = some (.refused .badOperand) ∧
    (after (.wreg 0x10 4294967296) (start [])).txLog = [] := by decide +kernel

-- T1
theorem test_rreg :
    lastResult (after (.rreg 0x6F) (start
      [raw [0x05#8, 0x00#8, 0x6F#8, 0x84#8, 0x05#8, 0xFF#8, 0x6F#8, 0x00#8, 0x00#8, 0x01#8, 0x01#8, 0xF9#8]])) =
      some (.completed (.word 0x101#32) (some true) none) := by decide +kernel

/-- The `ok` bit of a result. -/
def okOf : OpResult → Option Bool
  | .completed _ ok _ => ok
  | .refused _ => none

-- T3 (bad CRC), T4 (7 bytes), T9 (another register), T11 (short echo)
theorem test_rreg_malformed :
    ([[0x05#8, 0x00#8, 0x6F#8, 0x84#8, 0x05#8, 0xFF#8, 0x6F#8, 0x00#8, 0x00#8, 0x01#8, 0x01#8, 0xF8#8],
      [0x05#8, 0x00#8, 0x6F#8, 0x84#8, 0x05#8, 0xFF#8, 0x6F#8, 0x00#8, 0x00#8, 0x01#8, 0x01#8],
      [0x05#8, 0x00#8, 0x6F#8, 0x84#8, 0x05#8, 0xFF#8, 0x6C#8, 0x00#8, 0x00#8, 0x01#8, 0x01#8, 0xA6#8],
      [0x05#8, 0x00#8, 0x6F#8, 0x05#8, 0xFF#8, 0x6F#8, 0x00#8, 0x00#8, 0x01#8, 0x01#8, 0xF9#8]].map
      fun rx => (lastResult (after (.rreg 0x6F) (start [raw rx]))).bind okOf) =
      [some false, some false, some false, some false] := by decide +kernel

-- 30_encoding R78; a frame of another node is none of this block's
theorem test_w8 :
    (after (.w8 0#2 0x40#7 0x64#32 0x7F#8) (startShadow [echo])).shadow[0x40] = 0x64#32 ∧
    lastResult (after (.w8 3#2 0x40#7 0x64#32 0xE5#8) (start [echo])) = some (.refused .badOperand) := by decide +kernel

-- the request of S6 at the lower interface
theorem test_r4 :
    lastResult (after (.r4 0#2 0x41#7 0xCF#8) (start [reply 0x41#7 0x1F4#32])) =
      some (.completed (.word 0x1F4#32) (some true) none) := by decide +kernel

-- 30_encoding R97, the frame of GET_VERSION's example
theorem test_p8 :
    lastResult (after .getVersion (after (.p8 0x06#7 0x21000040#32 0x4F#8) (start []))) =
      some (.completed (.int 0x21) (some true) none) := by decide +kernel

/-! ### FC -/

-- X1, X3, X4, X6, X7, X10
theorem test_extract :
    extractField ⟨0x22, 8, 8, false⟩ 0x12345678#32 = 86 ∧ extractField ⟨0x22, 28, 4, true⟩ 0x89ABCDEF#32 = -8 ∧
    extractField ⟨0x22, 0, 16, true⟩ 0x89ABCDEF#32 = -12817 ∧ extractField ⟨0x22, 4, 8, true⟩ 0x12345678#32 = 103 ∧
    extractField ⟨0x22, 0, 1, true⟩ 1#32 = -1 ∧ extractField ⟨0x22, 0, 32, true⟩ 0xFFFFFFFF#32 = -1 := by decide +kernel

-- I1, I2, I3, I8
theorem test_insert :
    insertField ⟨0x22, 0, 24, true⟩ 0xAB000000#32 (-1) = 0xABFFFFFF#32 ∧
    insertField ⟨0x22, 4, 4, true⟩ 0#32 8 = 0x80#32 ∧ insertField ⟨0x22, 4, 4, false⟩ 0#32 17 = 0x10#32 ∧
    insertField defaultFieldTable.irun 0x00011F10#32 49 = 0x00011110#32 := by decide +kernel

theorem test_rfld :
    lastResult (after (.rfld (.named .t120)) (start [reply 0x6F#7 0x101#32])) = some (.completed (.int 1) (some true) none) ∧
    lastResult (after (.rfld (.literal ⟨0x22, 30, 4, false⟩)) (start [])) = some (.refused .badFieldSpec) := by
  decide +kernel

-- I6, I4
theorem test_wfld :
    (after (.wfld (.named .irun) 17) (start [reply 0x10#7 0x00011F10#32, echo])).txLog =
      [[0x05#8, 0x00#8, 0x10#8, 0x70#8], [0x05#8, 0x00#8, 0x90#8, 0x00#8, 0x01#8, 0x11#8, 0x10#8, 0x7D#8]] ∧
    (after (.wfld (.literal ⟨0x22, 0, 32, true⟩) (-1)) (start [echo])).txLog =
      [[0x05#8, 0x00#8, 0xA2#8, 0xFF#8, 0xFF#8, 0xFF#8, 0xFF#8, 0xD0#8]] := by decide +kernel

/-- The last frame of the TX log. -/
def lastFrame (s : State) : Option (List Byte) := s.txLog.getLast?

-- 95 section 4.1, n = 16 and n = 3
theorem test_setMstep :
    lastFrame (after (.setMstep 16) (start [reply 0x6C#7 0x10000053#32, echo])) = some (buildW8 0#2 0x6C#7 0x14000053#32) ∧
    (after (.setMstep 3) (start [])).txLog = [] := by decide +kernel

-- M1, M2
theorem test_getMstep :
    lastResult (after .getMstep (start [reply 0x6C#7 0x08000053#32])) = some (.completed (.int 1) (some true) none) ∧
    lastResult (after .getMstep (start [reply 0x6C#7 0x80000053#32])) = some (.completed (.int 256) (some true) none) := by
  decide +kernel

-- D2, D3
theorem test_setIholddelay :
    (lastResult (after (.setIholddelay 15) (start [reply 0x10#7 0x00011109#32, echo])) =
      some (.completed .none (some true) none) ∧
    lastResult (after (.setIholddelay 16) (start [reply 0x10#7 0x00011109#32, echo])) =
      some (.completed .none (some true) (some .holddelayClamped))) ∧
    lastFrame (after (.setIholddelay 16) (start [reply 0x10#7 0x00011109#32, echo])) =
      some (buildW8 0#2 0x10#7 0x000F1109#32) := by decide +kernel

-- D5, D8
theorem test_setIholddelayMs :
    lastFrame (after (.setIholddelayMs 100) (start [reply 0x10#7 0x00011109#32, echo])) =
      some (buildW8 0#2 0x10#7 0x00041109#32) ∧
    lastFrame (after (.setIholddelayMs 21) (start [reply 0x10#7 0x00041109#32, echo])) =
      some (buildW8 0#2 0x10#7 0x00001109#32) := by decide +kernel

-- D16, D17
theorem test_getIholddelay :
    lastResult (after .getIholddelay (start [reply 0x10#7 0x00041109#32])) = some (.completed (.int 4) (some true) none) ∧
    lastResult (after .getIholddelayMs (start [reply 0x10#7 0x00041109#32])) =
      some (.completed (.rat (32768 / 375)) (some true) none) := by decide +kernel

-- D11, D12
theorem test_setTpowerdown :
    lastResult (after (.setTpowerdown 256) (start [reply 0x11#7 0#32, echo])) =
      some (.completed .none (some true) (some .tpowerdownClamped)) ∧
    lastFrame (after (.setTpowerdown 20) (start [reply 0x11#7 0xABCDEF00#32, echo])) =
      some (buildW8 0#2 0x11#7 0xABCDEF14#32) := by decide +kernel

-- D14, D15
theorem test_setTpowerdownMs :
    lastFrame (after (.setTpowerdownMs 5570) (start [reply 0x11#7 0#32, echo])) = some (buildW8 0#2 0x11#7 0xFE#32) ∧
    lastResult (after (.setTpowerdownMs 5600) (start [reply 0x11#7 0#32, echo])) =
      some (.completed .none (some true) (some .tpowerdownClamped)) := by decide +kernel

-- R168's example, D18
theorem test_getTpowerdown :
    lastResult (after .getTpowerdown (start [reply 0x11#7 0x14#32])) = some (.completed (.int 20) (some true) none) ∧
    lastResult (after .getTpowerdownMs (start [reply 0x11#7 0x14#32])) =
      some (.completed (.rat (32768 / 75)) (some true) none) := by decide +kernel

-- 95 section 4.2, the column `nearest` at 349 ms and `trunc`
theorem test_msToRaw :
    msToRaw (start []) 349 = 15 ∧
    msToRaw { start [] with params := { defaultParams with msRounding := .nearest } } 349 = 16 := by decide +kernel

-- S3, S4
theorem test_setSgthrs :
    (after (.setSgthrs 255) (start [echo])).txLog = [[0x05#8, 0x00#8, 0xC0#8, 0x00#8, 0x00#8, 0x00#8, 0xFF#8, 0x7E#8]] ∧
    lastResult (after (.setSgthrs 256) (start [])) = some (.refused .badOperand) := by decide +kernel

-- S5, S6
theorem test_getSg :
    lastResult (after .getSgthrs (start [reply 0x40#7 0x64#32])) = some (.completed (.word 0x64#32) (some true) none) ∧
    lastResult (after .getSgresult (start [reply 0x41#7 0x1F4#32])) = some (.completed (.word 0x1F4#32) (some true) none) := by
  decide +kernel

-- S8, S9
theorem test_setTcoolthrs :
    lastFrame (after (.setTcoolthrs 1048575) (start [reply 0x14#7 0#32, echo])) = some (buildW8 0#2 0x14#7 0x000FFFFF#32) ∧
    lastFrame (after (.setTcoolthrs 1048576) (start [reply 0x14#7 0#32, echo])) = some (buildW8 0#2 0x14#7 0#32) := by
  decide +kernel

-- S11, S12
theorem test_getTcoolthrs_getVersion :
    lastResult (after .getTcoolthrs (start [reply 0x14#7 0xFFFFF#32])) =
      some (.completed (.int 1048575) (some true) none) ∧
    lastResult (after .getVersion (start [reply 0x06#7 0x21000040#32])) = some (.completed (.int 0x21) (some true) none) := by
  decide +kernel

/-! ### Local configuration and SETUP -/

-- K1, K2
theorem test_fosc :
    (after (.setFosc 16000000) (start [])).fosc = 16000000 ∧ msToRaw (after (.setFosc 16000000) (start [])) 100 = 6 ∧
    lastResult (after (.setFosc 0) (start [])) = some (.refused .domain) := by decide +kernel

-- K3
theorem test_rsense :
    lastResult (after .getRsense (after (.setRsense (15 / 100) true) (start []))) =
      some (.completed (.sense (3 / 20) true) none none) := by decide +kernel

-- K5, K6
theorem test_holdfrac :
    lastResult (after .getHoldfrac (after (.setHoldfrac (3 / 10)) (start []))) =
      some (.completed (.rat (3 / 10)) none none) ∧
    lastResult (after (.setHoldfrac (3 / 2)) (start [])) = some (.refused .domain) := by decide +kernel

-- K7, K8, F15
theorem test_nodeaddr :
    lastResult (after .getNodeaddr (after (.setNodeaddr 2) State.reset)) = some (.completed (.node 2#2) none none) ∧
    lastResult (after (.setNodeaddr 2) (start [])) = some (.refused .nodeAddrFixed) ∧
    lastResult (after (.setNodeaddr 7) (start [])) = some (.refused .badOperand) := by decide +kernel

-- R281's example
theorem test_setup :
    (after .setup (after (.edge .diag) State.reset)).diagFlag = false ∧ (after .setup State.reset).phase = .running := by
  decide +kernel

/-! ### CQ -/

-- 95 sections 5.1, 5.2: the four corners of R231, and Q1 to Q4
theorem test_csFwd :
    [csForward (start []) 1, csForward (start []) 0, csForward (start []) 2, csForward (start []) (91 / 100),
      csForward (start []) (92 / 100), csForward (start []) (179 / 100), csForward (start []) (18 / 10)] =
      [⟨17, false, false⟩, ⟨0, true, false⟩, ⟨31, false, true⟩, ⟨29, true, false⟩, ⟨16, false, false⟩, ⟨31, false, false⟩,
       ⟨31, false, true⟩] := by decide +kernel

theorem test_csFwd_result :
    lastResult (after (.csFwd 2) (start [])) = some (.completed (.scale 31 false) none (some .capability)) ∧
    lastResult (after (.csFwd (-1 / 10)) (start [])) = some (.refused .domain) := by decide +kernel

-- 95 section 5.3: CSInv(17, false) = 45√2/64
theorem test_csInv :
    lastResult (after (.csInv 17 false) (start [])) = some (.completed (.current (45 / 64)) none none) ∧
    lastResult (after (.csInv 32 false) (start [])) = some (.refused .badOperand) := by decide +kernel

-- 95 section 5.4
theorem test_holdScale :
    [17, 31, 25, 3, 1, 0].map (holdScale (start [])) = [9, 16, 13, 2, 1, 0] ∧
    holdScale { start [] with holdFraction := 3 / 10 } 17 = 5 := by decide +kernel

-- P1
theorem test_setRms :
    (after (.setRms 1) (start [reply 0x6C#7 0x10000053#32, echo, reply 0x10#7 0x00011F10#32, echo,
      reply 0x10#7 0x00011110#32, echo])).txLog =
      [[0x05#8, 0x00#8, 0x6C#8, 0xCA#8], [0x05#8, 0x00#8, 0xEC#8, 0x10#8, 0x00#8, 0x00#8, 0x53#8, 0x9C#8],
       [0x05#8, 0x00#8, 0x10#8, 0x70#8], [0x05#8, 0x00#8, 0x90#8, 0x00#8, 0x01#8, 0x11#8, 0x10#8, 0x7D#8],
       [0x05#8, 0x00#8, 0x10#8, 0x70#8], [0x05#8, 0x00#8, 0x90#8, 0x00#8, 0x01#8, 0x11#8, 0x09#8, 0xBC#8]] := by
  decide +kernel

-- P7: shadow mode makes four transactions
theorem test_setRms_shadow :
    let t := after (.setRms 1) (startShadow [reply 0x6C#7 0x10000053#32, echo, echo, echo])
    t.txLog.length = 4 ∧ t.shadow[0x10] = 0x00001109#32 ∧ t.shadow[0x6C] = 0x10000053#32 ∧ t.rmsTarget = some 1 := by
  decide +kernel

-- P1's GET_RMS
theorem test_getRms :
    lastResult (after .getRms (start [reply 0x6C#7 0x10000053#32, reply 0x10#7 0x00011109#32])) =
      some (.completed (.current (45 / 64)) (some true) none) := by decide +kernel

/-! ### EDB -/

-- E2: diag, true and false, from reset
theorem test_check :
    (after (.check 0 true) (start [])).events = [.diagTriggered, .stalled] ∧
    (after (.check 0 false) (after (.check 0 true) (start []))).events = [.diagTriggered, .stalled] ∧
    (after (.check 0 false) (after (.check 0 true) (start []))).prev = .clear := by decide +kernel

-- E7, and E1's fall
theorem test_check_more :
    lastResult (after (.check 9 true) (start [])) = some (.refused .badOperand) ∧
    (after (.check 5 false) (after (.check 5 true) (start []))).events.map eventCode = [6, 7] := by decide +kernel

-- E8
theorem test_poll_interrupts :
    let t := after .poll { startIrq (List.replicate 8 (reply 0x6F#7 0x101#32)) with diagFlag := true }
    t.events.map eventCode = [1, 0, 4, 6] ∧ t.prev = ⟨true, false, false, true, false, true, false, false, false⟩ ∧
    t.diagFlag = false ∧ t.txLog.length = 8 := by decide +kernel

-- E14 and E17
theorem test_poll_paths :
    (after .poll (start (reply 0x06#7 0x21000050#32 :: List.replicate 8 (reply 0x6F#7 0#32)))).events.map eventCode =
      [1, 0, 3] ∧
    (after .poll { startIrq [reply 0x6F#7 1#32] with
      params := { defaultParams with pollSnapshot := .single } }).events.map eventCode = [4] := by decide +kernel

-- E19: an EDGE inside the fourth read of a POLL
theorem test_edge_inside_poll :
    let r := reply 0x6F#7 0#32
    let t := after .poll { startIrq [r, r, r, { r with edges := [.diag] }, r, r, r, r] with diagFlag := true }
    t.events.map eventCode = [1, 0, 3] ∧ t.diagFlag = true ∧ t.prev.diag = true := by decide +kernel

theorem test_edge : (after (.edge .index) (start [])).indexFlag = true ∧ (after (.edge .index) (start [])).diagFlag = false := by
  decide +kernel

/-- P8: the first two instructions of the listener of DIAG_TRIGGERED, and its return; then the other two returns. -/
def listenerState : State :=
  { startIrq (reply 0x06#7 0x21000040#32 :: List.replicate 8 (reply 0x6F#7 0#32)) with
    diagFlag := true
    port := [encode .poll]
    nest := [.input (encode .poll), .input (encode .getVersion), .ret, .ret, .ret] }

-- P8
theorem test_listener :
    let t := stepped (stepped (stepped (stepped (stepped (stepped listenerState)))))
    t.events.map eventCode = [1, 0, 3] ∧ t.stack = [] ∧ t.txLog.length = 9 ∧
    t.txLog.head? = some (buildR4 0#2 0x06#7) ∧
    t.results.map (·.result) = [.refused .nested, .completed (.int 0x21) (some true) none,
      .completed (.events [.diagTriggered, .stalled, .temperatureNormal]) (some true) none] ∧
    t.prev = ⟨true, false, true, false, false, false, false, false, false⟩ := by decide +kernel

/-! ### The step -/

theorem test_step_idle : stepped State.reset = State.reset := by decide +kernel

theorem test_step_fetch_word :
    lastResult (stepped (State.reset.withFetchWord 8 0x29)) = some (.completed (.rat 12000000) none none) ∧
    lastResult (stepped (State.reset.withFetchWord 8 0x05)) = some (.refused .badOpcode) := by decide +kernel

/-! ### Polls with a read of its own for each input -/

/-- Eight different DRV_STATUS words for the eight reads of a poll on the interrupt paths. -/
def eightWords : State :=
  { startIrq ([0x0#32, 0x1#32, 0x1#32, 0x0#32, 0x100#32, 0x100#32, 0x400#32, 0x3FF#32].map (reply 0x6F#7)) with
    indexFlag := true
    prev := ⟨true, false, true, false, true, false, true, false, true⟩ }

-- 42_edge_detector R203 to R207, by hand: nt = (w1.otpw = 0 and w2.ot = 0), otpw = w3 bit 0, ot = w4 bit 1,
-- t120 = w5 bit 8, t143 = w6 bit 9, t150 = w7 bit 10, t157 = w8 bit 11
theorem test_poll_reads_in_order :
    (after .poll eightWords).prev = ⟨false, true, true, true, false, true, false, true, false⟩ ∧
    (after .poll eightWords).events.map eventCode = [2, 4, 6, 9, 10, 13] ∧ (after .poll eightWords).indexFlag = false := by
  decide +kernel

-- R214, R297: a CHECK of the same handler nested in DIAG_TRIGGERED is overwritten by the outer step
theorem test_nested_check :
    let s := { start [] with port := [encode (.check 0 true)], nest := [.input (encode (.check 0 false)), .ret, .ret] }
    let t := stepped (stepped (stepped (stepped s)))
    t.prev.diag = true ∧ t.stack = [] ∧ t.events = [.diagTriggered, .stalled] := by decide +kernel

theorem no_poll_of_empty {s : State} (h : s.stack = []) : ¬ PollInProgress s := by
  rintro ⟨a, ha, -⟩
  rw [h] at ha
  cases ha

theorem no_shadow {s : State} {reg : RegAddr} (h : s.params.readback = .wire) : ¬ ShadowRead s reg := by
  intro k
  rw [k.1] at h
  cases h

/-! ### Witnesses: concrete states and operands that meet the hypotheses of a statement -/

/-- A CHECK suspended at its first event, in a listener of which a POLL is issued. -/
def suspendedCheck : State :=
  { start [] with
    events := [.diagTriggered]
    txLog := [buildR4 0#2 0x6F#7]
    stack :=
      [{ ctx := { emitter := .check 0 true, ok := true, snapshot := none, events := [.diagTriggered, .stalled] }
         handler := .diag, input := true, pending := [.stalled], rest := [] }]
    nest := [.ret] }

theorem witness_EncodeInvertsDecode :
    decode (.command 0x30#8 [.num 8, .flag true]) = .ok (.check 8 true) ∧
    decode (.frame [0x05#8, 0x00#8, 0x6F#8, 0x84#8]) = .ok (.r4 0#2 0x6F#7 0x84#8) := by exact ⟨rfl, rfl⟩

theorem witness_InputsThatAreNoInstructionAreRefused :
    (decode (.command 0x30#8 [.num 5, .num 1]) = .error .badOperand ∧
      { start [] with port := [.command 0x30#8 [.num 5, .num 1]] }.port = .command 0x30#8 [.num 5, .num 1] :: []) ∧
    suspendedCheck.stack ≠ [] ∧
    { suspendedCheck with nest := [.input (.command 0xFF#8 [])] }.nest = .input (.command 0xFF#8 []) :: [] ∧
    (∀ code ∈ [0x00#8, 0x05#8, 0x0F#8, 0x2C#8, 0x2F#8, 0x33#8, 0x3F#8, 0x41#8, 0xFF#8],
      (code.toNat = 0 ∨ (0x05 ≤ code.toNat ∧ code.toNat ≤ 0x0F) ∨ (0x2C ≤ code.toNat ∧ code.toNat ≤ 0x2F) ∨
        (0x33 ≤ code.toNat ∧ code.toNat ≤ 0x3F) ∨ 0x41 ≤ code.toNat) ∧ commandOperands code.toNat = none) ∧
    (commandOperands 0x30 = some [.integer, .bool] ∧ admitsAll [.integer, .bool] [.num 8, .flag true] = true ∧
      [[.num 5, .num 1], [.num (1 / 2), .flag true], [.num 5]].all
        (fun args => !admitsAll [.integer, .bool] args) = true) ∧
    decode (.frame []) = .error .badOpcode :=
  ⟨⟨rfl, rfl⟩, by decide +kernel, rfl, by decide +kernel, by decide +kernel, rfl⟩

theorem witness_ReplyFrameAnswersTheNextRead : (start []).wire = [] ∧ ¬ ShadowRead (start []) 0x6F#7 :=
  ⟨rfl, fun h => nomatch h.1⟩

theorem witness_OnlyTheReplyWindowMatters :
    ¬ ShadowRead (start []) 0x6F#7 ∧
    (([0x05#8, 0x00#8, 0x6F#8, 0x84#8] ++ buildP8 0x6F#7 1#32).drop 4).take 8 =
      (([0x00#8, 0x00#8, 0x00#8, 0x00#8] ++ buildP8 0x6F#7 1#32 ++ [0xAA#8]).drop 4).take 8 :=
  ⟨fun h => (nomatch h.1), rfl⟩

theorem witness_WritesIgnoreTheAnswer :
    (∃ (reg : RegAddr) (v : Word), Instr.wreg 127 4294967295 = .wreg reg.toNat v.toNat) ∧
    (∃ v : Int, 0 ≤ v ∧ v ≤ 255 ∧ Instr.setSgthrs 255 = .setSgthrs v) ∧
    (∃ (f : FieldRef) (v : Int), fieldSpecOk (resolveField (start []).params.fieldTable f) = true ∧
      coversRegister (resolveField (start []).params.fieldTable f) = true ∧
      Instr.wfld (.literal ⟨0x22, 0, 32, true⟩) (-1) = .wfld f v) ∧
    (∃ reg v, Instr.w8 0#2 0x40#7 0x64#32 0x7F#8 =
      .w8 (start []).node reg v (crc8 (w8Body (start []).node reg v))) := by
  refine ⟨⟨127#7, 4294967295#32, by decide +kernel⟩, ⟨255, by omega, by omega, rfl⟩,
    ⟨.literal ⟨0x22, 0, 32, true⟩, -1, by decide +kernel⟩, ⟨0x40#7, 0x64#32, by decide +kernel⟩⟩

theorem witness_ShadowReadsBackWhatWasWritten : ShadowRead (startShadow []) 0x10#7 := by
  constructor <;> decide +kernel

theorem witness_FieldSpecs :
    [(⟨127, 31, 1, true⟩ : FieldSpec), ⟨0, 0, 32, false⟩, ⟨0, 0, 32, true⟩, ⟨0x10, 8, 5, false⟩].all fieldSpecOk = true ∧
    FieldSpec.signed ⟨127, 31, 1, true⟩ = true ∧ FieldSpec.signed ⟨0x10, 8, 5, false⟩ = false ∧ 31 < 32 := by decide +kernel

theorem witness_RfldAndWfld :
    fieldSpecOk (resolveField (start []).params.fieldTable (.named .irun)) = true ∧
    fieldSpecOk (resolveField (start []).params.fieldTable (.literal ⟨127, 31, 1, true⟩)) = true := by decide +kernel

theorem witness_StoringChipRoundTrip :
    let f : FieldSpec := ⟨0x22, 4, 4, true⟩
    let s := start [healthyReply (fieldAddr f) 7#32, echo, healthyReply (fieldAddr f) (insertField f 7#32 8)]
    let g : FieldSpec := ⟨0x22, 0, 32, true⟩
    let u := start [echo, healthyReply (fieldAddr g) (BitVec.ofInt 32 (-1))]
    (fieldSpecOk f = true ∧ coversRegister f = false ∧ ¬ ShadowRead s (fieldAddr f) ∧
      s.wire = healthyReply (fieldAddr f) 7#32 :: echo :: healthyReply (fieldAddr f) (insertField f 7#32 8) :: []) ∧
    (fieldSpecOk g = true ∧ coversRegister g = true ∧ ¬ ShadowRead u (fieldAddr g) ∧
      u.wire = echo :: healthyReply (fieldAddr g) (BitVec.ofInt 32 (-1)) :: []) ∧
    fieldSpecOk ⟨0x10, 8, 5, false⟩ = true ∧ ShadowRead (startShadow []) (fieldAddr ⟨0x10, 8, 5, false⟩) :=
  ⟨⟨by decide +kernel, by decide +kernel, no_shadow rfl, rfl⟩,
    ⟨by decide +kernel, by decide +kernel, no_shadow rfl, rfl⟩, by decide +kernel, by decide +kernel, by decide +kernel⟩

theorem witness_SetMstepWritesItsCodeOrNothing :
    (0 ≤ 8 ∧ 8 ≤ 8) ∧ (∀ k : Nat, k ≤ 8 → (3 : Int) ≠ 2 ^ k) ∧ (∀ k : Nat, k ≤ 8 → (512 : Int) ≠ 2 ^ k) ∧
    (∀ k : Nat, k ≤ 8 → (0 : Int) ≠ 2 ^ k) := by decide +kernel

theorem witness_GetMstepReturnsTheResolution :
    extractField (field (start []) .mres) (memRead (start [reply 0x6C#7 0x08000053#32]) 0x6C#7).value = (8 : Nat) ∧
    extractField (field (start []) .mres) (memRead (start [reply 0x6C#7 0#32]) 0x6C#7).value = (0 : Nat) := by
  decide +kernel

theorem witness_DelaySetters :
    ((0 : Int) ≤ 15 ∧ ¬ (15 : Int) > 15 ∧ (0 : Int) ≤ 16 ∧ (16 : Int) > 15 ∧ (0 : Int) ≤ 255 ∧ (256 : Int) > 255) ∧
    (0 : Rat) ≤ 0 ∧ (0 : Rat) ≤ 5600 ∧ msToRaw (start []) 0 = 0 ∧ msToRaw (start []) 5600 > 255 := by decide +kernel

theorem witness_MillisecondRoundTrip :
    (0 : Rat) ≤ 349 ∧ 0 < (start []).fosc ∧ 0 < (start []).params.tclkDiv ∧ (start []).params.msRounding = .trunc ∧
    { defaultParams with msRounding := .nearest }.msRounding = MsRounding.nearest ∧
    0 < { defaultParams with msRounding := .nearest }.tclkDiv ∧
    (let s := { start [] with params := { defaultParams with msRounding := .nearest } }
     rawToMs s (msToRaw s (4096 / 375)) - 4096 / 375 = s.params.tclkDiv * 1000 / s.fosc / 2) := by decide +kernel

-- 43_current_quantizer R232: the tie 17 · 1/2
theorem witness_SetRmsWritesThreeFieldsInOrder :
    (0 : Rat) ≤ 1 ∧ (csForward (start []) 1).scale = 17 ∧ (17 : Rat) * (start []).holdFraction = 9 - 1 / 2 ∧
    0 ≤ (start []).holdFraction ∧ (start []).holdFraction ≤ 1 := by decide +kernel

theorem witness_StallAndSpeed : (0 : Int) ≤ 0 ∧ (0 : Int) ≤ 255 ∧ (255 : Int) ≤ 255 ∧ (0 : Int) ≤ 1048576 := by decide

theorem witness_LocalSettersStoreTheirValue :
    (0 : Rat) < 12000000 ∧ (0 : Rat) < 11 / 100 ∧ ((0 : Rat) ≤ 0 ∧ (0 : Rat) ≤ 1) ∧ ((0 : Rat) ≤ 1 ∧ (1 : Rat) ≤ 1) ∧
    State.reset.phase = .config := by decide +kernel

theorem witness_paramsOk : ParamsOk defaultParams :=
  { table := fun n => by cases n <;> decide +kernel
    vfsHi := by decide +kernel
    vfsLo := by decide +kernel
    rInt := by decide +kernel
    tclkDiv := by decide +kernel }

theorem witness_InvariantHoldsAtConstruction : ConstructionOk defaultConstruction :=
  { rsense := by decide +kernel
    fosc := by decide +kernel
    holdLow := by decide +kernel
    holdHigh := by decide +kernel
    params := witness_paramsOk }

theorem witness_configOk (s : State) (h : s = start [] ∨ s = suspendedCheck) : ConfigOk s := by
  rcases h with rfl | rfl <;> exact
  { rsense := by decide +kernel
    fosc := by decide +kernel
    holdLow := by decide +kernel
    holdHigh := by decide +kernel
    target := fun _ h => nomatch h }

/-- The hypotheses of the statements on the forward quantizer, at currents of each range, with and without a warning. -/
theorem witness_ForwardQuantizer :
    ((0 : Rat) ≤ 0 ∧ (0 : Rat) ≤ 1 ∧ (1 : Rat) ≤ 2) ∧ ConfigOk (start []) ∧ ParamsOk (start []).params ∧
    (csForward (start []) 0).vsense = true ∧ (csForward (start []) 1).vsense = false ∧
    (csForward (start []) 1).warn = false ∧ (csForward (start []) 2).warn = true ∧
    0 ≤ quantize (start []) 1 (fullScale (start []).params (csForward (start []) 1).vsense) :=
  ⟨by decide +kernel, witness_configOk _ (.inl rfl), witness_paramsOk, by decide +kernel, by decide +kernel, by decide +kernel,
    by decide +kernel, by decide +kernel⟩

theorem witness_DefaultVoltages :
    0 < (start []).rsense ∧ DefaultVoltages (start []).params ∧ ((0 : Int) ≤ 0 ∧ (0 : Int) ≤ 31 ∧ (31 : Int) ≤ 31) ∧
    ((0 : Rat) ≤ 1 / 2 ∧ (1 / 2 : Rat) ≤ 1) :=
  ⟨by decide +kernel, ⟨by decide +kernel, by decide +kernel, by decide +kernel⟩, by decide, by decide +kernel⟩

theorem witness_EmissionWaitsForItsListeners :
    suspendedCheck.nest ≠ [] ∧ true ≠ suspendedCheck.prev.get .diag ∧
    changeEvents .diag true = .diagTriggered :: [.stalled] ∧ inPoll suspendedCheck = false := by decide +kernel

theorem witness_CheckRunsOneHandlerStep :
    (start []).nest = [] ∧ suspendedCheck.nest ≠ [] ∧ false = suspendedCheck.prev.get .diag ∧
    changeEvents .diag false = [] := by decide +kernel

/-- A POLL suspended in its first handler with the events `pending` left, and what reaches the block from its listener on. -/
def suspendedPoll (pending : List Event) (nest : List NestedInput) : State :=
  { startIrq [] with
    events := [.diagTriggered]
    stack :=
      [{ ctx := { emitter := .poll, ok := true, snapshot := none, events := [.diagTriggered, .stalled] }
         handler := .diag, input := true, pending := pending, rest := handlerOrder.tail }]
    nest := nest }

theorem witness_SuspendedOperationGoesOnAfterItsListener :
    let a : Activation :=
      { ctx := { emitter := .check 0 true, ok := true, snapshot := none, events := [.diagTriggered, .stalled] }
        handler := .diag, input := true, pending := [.stalled], rest := [] }
    let b : Activation :=
      { ctx := { emitter := .poll, ok := true, snapshot := none, events := [.diagTriggered, .stalled] }
        handler := .diag, input := true, pending := [.stalled], rest := handlerOrder.tail }
    (suspendedCheck.stack = a :: [] ∧ suspendedCheck.nest = .ret :: [] ∧ a.ctx.emitter = .check 0 true ∧ a.rest = []) ∧
    ((suspendedPoll [.stalled] []).stack = b :: [] ∧ (suspendedPoll [.stalled] []).nest = [] ∧ b.ctx.emitter = .poll) ∧
    ((suspendedPoll [.stalled] [.ret, .blocked]).nest = .ret :: [.blocked] ∧ b.pending = .stalled :: []) ∧
    ((suspendedPoll [] [.ret, .ret]).stack = { b with pending := [] } :: [] ∧
      (suspendedPoll [] [.ret, .ret]).nest = .ret :: [.ret]) := by decide +kernel

theorem witness_no_poll (wire : List WireAnswer) : (start wire).nest = [] ∧ ¬ PollInProgress (start wire) :=
  ⟨rfl, no_poll_of_empty rfl⟩

theorem witness_no_poll_with_interrupts :
    eightWords.nest = [] ∧ ¬ PollInProgress eightWords ∧ eightWords.irqDiag = true ∧ eightWords.irqIndex = true ∧
    eightWords.params.fieldTable = defaultFieldTable ∧ eightWords.params.readback = .wire ∧
    eightWords.params.pollSnapshot = .perField ∧
    eightWords.wire = [0#32, 1#32, 1#32, 0#32, 0x100#32, 0x100#32, 0x400#32, 0x3FF#32].map (healthyReply regDrvStatus) ++ [] :=
  ⟨rfl, no_poll_of_empty rfl, rfl, rfl, rfl, rfl, rfl, rfl⟩

theorem witness_PollSingleUsesOneSnapshot :
    let s := { startIrq [healthyReply regDrvStatus 0x101#32] with params := { defaultParams with pollSnapshot := .single } }
    s.nest = [] ∧ ¬ PollInProgress s ∧ s.irqDiag = true ∧ s.irqIndex = true ∧ s.params.fieldTable = defaultFieldTable ∧
    s.params.readback = .wire ∧ s.params.pollSnapshot = .single ∧ s.wire = healthyReply regDrvStatus 0x101#32 :: [] :=
  ⟨rfl, no_poll_of_empty rfl, rfl, rfl, rfl, rfl, rfl, rfl⟩

/-- The diag level from the chip with an index edge inside that read, and both levels from pins. -/
theorem witness_PollTakesDiagAndIndexFromTheirSources :
    let s := { start [{ rx := .reply (buildP8 regIoin 0x10#32), edges := [.index] }] with irqIndex := true }
    let u := { start [] with params := { defaultParams with diagPollSource := .pin, indexPollSource := .pin } }
    (s.nest = [] ∧ ¬ PollInProgress s ∧ s.irqDiag = false ∧ s.irqIndex = true ∧ s.params.diagPollSource = .register ∧
      s.params.fieldTable = defaultFieldTable ∧ ¬ ShadowRead s regIoin ∧
      s.wire = { rx := .reply (buildP8 regIoin 0x10#32), edges := [.index] } :: []) ∧
    (u.nest = [] ∧ ¬ PollInProgress u ∧ u.irqDiag = false ∧ u.irqIndex = false ∧ u.params.diagPollSource = .pin ∧
      u.params.indexPollSource = .pin ∧ u.params.fieldTable = defaultFieldTable) ∧
    (start []).params.indexPollSource = .constFalse ∧ (startIrq []).irqDiag = true ∧ (startIrq []).irqIndex = true :=
  ⟨⟨rfl, no_poll_of_empty rfl, rfl, rfl, rfl, rfl, no_shadow rfl, rfl⟩,
    ⟨rfl, no_poll_of_empty rfl, rfl, rfl, rfl, rfl, rfl⟩, rfl, rfl, rfl⟩

theorem witness_PollEventsComeInTheFixedOrder :
    ∃ t, (start []).nest = [] ∧ ¬ PollInProgress (start []) ∧ exec .poll (start []) = .next t :=
  ⟨_, rfl, no_poll_of_empty rfl, rfl⟩

theorem witness_RefusedExactlyWhenTheRulesSay :
    [refusalOf (.wreg 128 0) (start []), refusalOf (.check 9 true) (start []),
      refusalOf (.rfld (.literal ⟨0, 31, 2, false⟩)) (start []), refusalOf (.setNodeaddr 3) (start []),
      refusalOf (.setFosc 0) (start []), refusalOf (.wreg 127 4294967295) (start [])] =
      [some .badOperand, some .badOperand, some .badFieldSpec, some .nodeAddrFixed, some .domain, none] ∧
    refusalOf .poll
      { start [] with
        stack :=
          [{ ctx := { emitter := .poll, ok := true, snapshot := none, events := [.diagTriggered, .stalled] }
             handler := .diag, input := true, pending := [.stalled], rest := handlerOrder.tail }] } =
      some .nested := by decide +kernel

theorem witness_StepRunsTheDecodedInstruction :
    decode (.command 0x31#8 []) = .ok .poll ∧ (start []).stack = [] ∧
    { start [] with port := [.command 0x31#8 []] }.port = .command 0x31#8 [] :: [] ∧ suspendedCheck.stack ≠ [] ∧
    { suspendedCheck with nest := [.input (.command 0x31#8 [])] }.nest = .input (.command 0x31#8 []) :: [] :=
  ⟨rfl, rfl, rfl, by decide +kernel, rfl⟩

theorem witness_EveryStepAnswersANextState :
    (start []).stack = [] ∧ (start []).port = [] ∧ suspendedCheck.stack ≠ [] ∧
    { suspendedCheck with nest := [.blocked] }.nest = .blocked :: [] := by decide +kernel

/-- A step from a running block in wire mode, with its instruction: the hypotheses of the statements on every step and on
every instruction. -/
theorem witness_step_and_exec :
    ∃ t u v, step (start []) = .next t ∧ (start []).phase = .running ∧ (start []).params.readback = .wire ∧
      exec .getFosc (start []) = .next u ∧ (∀ f, Instr.getFosc ≠ .setFosc f) ∧ Instr.getFosc ≠ .setup ∧
      Instr.getFosc ≠ .poll ∧ (∀ h v, Instr.getFosc ≠ .check h v) ∧ Instr.getFosc ≠ .edge .diag ∧
      fetch suspendedCheck = none ∧ step suspendedCheck = .next v :=
  ⟨_, _, _, rfl, rfl, rfl, rfl, by simp, by simp, by simp, by simp, by simp, rfl, rfl⟩

theorem witness_EveryStepKeepsTheInvariant : ∃ t, Inv suspendedCheck ∧ step suspendedCheck = .next t := by
  refine ⟨_, ⟨witness_configOk _ (.inr rfl), ?_, ?_, by unfold onePoll; decide +kernel⟩, rfl⟩
  · intro bs h
    cases h with
    | head => exact .inr ⟨0#2, 0x6F#7, rfl⟩
    | tail _ h => nomatch h
  · intro a h
    cases h with
    | head => exact ⟨⟨.diagTriggered, [], rfl⟩, fun h v e => by cases e; exact ⟨rfl, rfl, rfl⟩, fun e => nomatch e⟩
    | tail _ h => nomatch h

end Sys2Proof.Tests
end

section
/-! SUPPORT. What every step keeps of the parameters, the acquisition paths, the observation logs and, in wire mode, the
shadow: a reflexive and transitive relation that each operation of the model is in. -/

namespace Sys2Proof.Machine

/-! ### The relation -/

/-- From `s` to `t` the parameters and the acquisition paths stay, the observation logs only grow, and in wire mode the shadow
stays (spec/00_scope.md R9, spec/10_state.md R27, R33; log 4). -/
structure Grows (s t : State) : Prop where
  params : t.params = s.params
  irqDiag : t.irqDiag = s.irqDiag
  irqIndex : t.irqIndex = s.irqIndex
  txLog : s.txLog <+: t.txLog
  events : s.events <+: t.events
  results : s.results <+: t.results
  shadow : s.params.readback = .wire → t.shadow = s.shadow

/-- What `Grows` looks at. -/
def growthView (s : State) :
    Params × Bool × Bool × List (List Byte) × List Event × List LogEntry × Vector Word 128 :=
  (s.params, s.irqDiag, s.irqIndex, s.txLog, s.events, s.results, s.shadow)

theorem Grows.of_view {s t : State} (same : growthView t = growthView s) : Grows s t := by
  simp only [growthView, Prod.mk.injEq] at same
  obtain ⟨params, irqDiag, irqIndex, txLog, events, results, shadow⟩ := same
  exact ⟨params, irqDiag, irqIndex, by rw [txLog], by rw [events], by rw [results], fun _ => shadow⟩

theorem Grows.refl (s : State) : Grows s s := .of_view rfl

theorem Grows.trans {s t u : State} (h : Grows s t) (k : Grows t u) : Grows s u where
  params := k.params.trans h.params
  irqDiag := k.irqDiag.trans h.irqDiag
  irqIndex := k.irqIndex.trans h.irqIndex
  txLog := h.txLog.trans k.txLog
  events := h.events.trans k.events
  results := h.results.trans k.results
  shadow wire := (k.shadow (by rw [h.params, wire])).trans (h.shadow wire)

/-! ### The shared operations -/

theorem AfterReads.grows {s t : State} {n : Nat} (h : AfterReads s t n) : Grows s t := by
  obtain ⟨⟨rest, -, -, events, results⟩, frames, sent, -⟩ := h
  exact ⟨rest.params, rest.irqDiag, rest.irqIndex, ⟨frames, sent.symm⟩, by rw [events], by rw [results],
    fun _ => rest.shadow⟩

theorem grows_memRead (s : State) (reg : RegAddr) : Grows s (memRead s reg).state := (memRead_reads s reg).grows

theorem grows_transact (s : State) (tx : List Byte) : Grows s (transact s tx) :=
  ⟨rfl, rfl, rfl, List.prefix_append _ _, List.prefix_rfl, List.prefix_rfl, fun _ => rfl⟩

theorem grows_writeTransaction (s : State) (tx : List Byte) (reg : RegAddr) (v : Word) :
    Grows s (writeTransaction s tx reg v) where
  params := by simp
  irqDiag := by simp
  irqIndex := by simp
  txLog := by simp
  events := by simp
  results := by simp
  shadow wire := by simp [wire]

theorem grows_memWrite (s : State) (reg : RegAddr) (v : Word) : Grows s (memWrite s reg v) :=
  grows_writeTransaction s _ reg v

theorem grows_writeField (s : State) (f : FieldSpec) (v : Int) : Grows s (writeField s f v).state := by
  unfold writeField
  split
  · exact grows_memWrite s _ _
  · exact (grows_memRead s _).trans (grows_memWrite _ _ _)

theorem Grows.writeNamed {s t : State} (h : Grows s t) (n : FieldName) (v : Int) :
    Grows s (Machine.writeNamed t n v).state :=
  h.trans (grows_writeField t _ v)

theorem grows_logResult (s : State) (op : Option Instr) (r : OpResult) : Grows s (logResult s op r) :=
  ⟨rfl, rfl, rfl, List.prefix_rfl, List.prefix_rfl, List.prefix_append _ _, fun _ => rfl⟩

theorem grows_refuse (s : State) (op : Option Instr) (reason : RefuseReason) : Grows s (refuse s op reason) :=
  grows_logResult s op _

/-- An operation that ends after a growth has grown. -/
theorem Grows.complete {s t : State} (h : Grows s t) (op : Instr) (value : Value) (ok : Option Bool)
    (warning : Option Warning) : Grows s (Machine.complete t op value ok warning) :=
  h.trans (grows_logResult t _ _)

theorem grows_setFlag (s : State) (src : EdgeSrc) : Grows s (setFlag s src) :=
  .of_view (by cases src <;> rfl)

theorem grows_afterEvents (s : State) (es : List Event) : Grows s (afterEvents s es) :=
  ⟨rfl, rfl, rfl, List.prefix_rfl, List.prefix_append _ _, List.prefix_rfl, fun _ => rfl⟩

/-! ### The operations that emit -/

theorem grows_finishEmitter (ctx : EmitterCtx) (s : State) : Grows s (finishEmitter ctx s) :=
  (Grows.refl s).complete _ _ _ _

/-- A handler step grows the state, whether it ends or is suspended, where what follows it does. -/
theorem grows_handlerStep (ctx : EmitterCtx) (h : Handler) (v : Bool) (pending : List Event) (rest : List Handler)
    {k : State → State} (after : ∀ u, Grows u (k u)) (s : State) :
    Grows s (handlerStep ctx h v pending rest k s) := by
  rcases handlerStep_cases ctx h v pending rest k s with ⟨-, ends⟩ | ⟨e, left, -, -, waits⟩
  · rw [ends]
    have cell : Grows (afterEvents s pending) (setPrev (afterEvents s pending) h v) := .of_view rfl
    exact ((grows_afterEvents s pending).trans cell).trans (after _)
  · rw [waits]
    have emitted : Grows s (emit s e) := grows_afterEvents s [e]
    exact emitted.trans (.of_view rfl)

theorem grows_runHandlers (hs : List Handler) (ctx : EmitterCtx) (s : State) : Grows s (runHandlers hs ctx s) := by
  induction hs generalizing ctx s with
  | nil => exact grows_finishEmitter ctx s
  | cons h rest ih =>
    have input : Grows s (acquire h ctx.snapshot s).state := (acquire_reads h ctx.snapshot s).grows
    exact input.trans (grows_handlerStep _ h _ _ rest (ih _) _)

theorem Grows.resumeActivation {s t : State} (h : Grows s t) (a : Activation) : Grows s (Machine.resumeActivation a t) :=
  h.trans (grows_handlerStep a.ctx a.handler a.input a.pending a.rest (grows_runHandlers a.rest a.ctx) t)

/-! ### The shapes of the meanings -/

theorem grows_setNamed (op : Instr) (n : FieldName) (v : Int) (warning : Option Warning) (s : State) :
    Grows s (setNamed op n v warning s) :=
  (grows_writeField s _ v).complete _ _ _ _

theorem grows_getNamed (op : Instr) (n : FieldName) (f : Int → Value) (s : State) : Grows s (getNamed op n f s) :=
  (grows_memRead s _).complete _ _ _ _

theorem grows_getRegister (op : Instr) (reg : RegAddr) (s : State) : Grows s (getRegister op reg s) :=
  (grows_memRead s reg).complete _ _ _ _

/-! ### Every instruction -/

/-- Whatever next state the outcome `o` gives has grown from `s`. -/
def OutcomeGrows (s : State) (o : Host.Outcome State Fault Refusal) : Prop := ∀ t, o = .next t → Grows s t

theorem Grows.outcome {s t : State} (h : Grows s t) : OutcomeGrows s (.next t) := by
  rintro _ ⟨⟩
  exact h

/-- An operation that is refused unless `c` holds. -/
theorem Grows.outcome_if {s t : State} (h : Grows s t) {c : Prop} [Decidable c] {op : Option Instr}
    {reason : RefuseReason} : OutcomeGrows s (.next (if c then t else refuse s op reason)) := by
  split
  · exact h.outcome
  · exact (grows_refuse s op reason).outcome

/-- An operation that is refused where `c` holds. -/
theorem Grows.outcome_unless {s t : State} (h : Grows s t) {c : Prop} [Decidable c] {op : Option Instr}
    {reason : RefuseReason} : OutcomeGrows s (.next (if c then refuse s op reason else t)) := by
  split
  · exact (grows_refuse s op reason).outcome
  · exact h.outcome

theorem execSetMstep_grows (n : Int) (s : State) : OutcomeGrows s (execSetMstep n s) := by
  unfold execSetMstep
  split
  · exact (grows_setNamed _ _ _ _ s).outcome
  · exact ((Grows.refl s).complete _ _ _ _).outcome

theorem execSetNodeaddr_grows (a : Int) (s : State) : OutcomeGrows s (execSetNodeaddr a s) := by
  refine Grows.outcome_if ?_
  split
  · exact Grows.complete (.of_view (by rfl)) _ _ _ _
  · exact grows_refuse s _ _

theorem execSetRms_grows (amps : Rat) (s : State) : OutcomeGrows s (execSetRms amps s) := by
  have target : Grows s { s with rmsTarget := some amps } := .of_view rfl
  exact Grows.outcome_unless ((((target.writeNamed _ _).writeNamed _ _).writeNamed _ _).complete _ _ _ _)

theorem execCheck_grows (h : Int) (v : Bool) (s : State) : OutcomeGrows s (execCheck h v s) := by
  unfold execCheck
  split
  · exact (grows_handlerStep _ _ _ _ _ (grows_finishEmitter _) s).outcome
  · exact (grows_refuse s _ _).outcome

/-- SETUP reloads the shadow in shadow mode only. -/
theorem execSetup_grows (s : State) : OutcomeGrows s (execSetup s) := by
  refine Grows.outcome_unless (Grows.complete ?_ _ _ _ _)
  exact ⟨rfl, rfl, rfl, List.prefix_rfl, List.prefix_rfl, List.prefix_rfl, fun wire => by simp [shadowAfterSetup, wire]⟩

theorem exec_grows (i : Instr) (s : State) : OutcomeGrows s (exec i s) := by
  cases i with
  | wreg => exact ((grows_memWrite s _ _).complete _ _ _ _).outcome_if
  | rreg => exact ((grows_memRead s _).complete _ _ _ _).outcome_if
  | rfld => exact ((grows_memRead s _).complete _ _ _ _).outcome_if
  | wfld => exact ((grows_writeField s _ _).complete _ _ _ _).outcome_if
  | setMstep n => exact execSetMstep_grows n s
  | getMstep =>
    have draw (u : State) : Grows u { u with draws := u.draws + 1 } := .of_view rfl
    exact (((grows_memRead s _).trans (draw _)).complete _ _ _ _).outcome
  | setIholddelay | setIholddelayMs | setTpowerdown | setTpowerdownMs | setTcoolthrs =>
    exact (grows_setNamed _ _ _ _ s).outcome_unless
  | getIholddelay | getIholddelayMs | getTpowerdown | getTpowerdownMs | getTcoolthrs | getVersion =>
    exact (grows_getNamed _ _ _ s).outcome
  | setSgthrs => exact ((grows_memWrite s _ _).complete _ _ _ _).outcome_if
  | getSgthrs | getSgresult => exact (grows_getRegister _ _ s).outcome
  | csFwd => exact ((Grows.refl s).complete _ _ _ _).outcome_unless
  | csInv => exact ((Grows.refl s).complete _ _ _ _).outcome_if
  | setRms amps => exact execSetRms_grows amps s
  | getRms => exact (((grows_memRead s _).trans (grows_memRead _ _)).complete _ _ _ _).outcome
  | setHoldfrac | setRsense | setFosc => exact Grows.outcome_unless (Grows.complete (.of_view (by rfl)) _ _ _ _)
  | getHoldfrac | getRsense | getFosc | getNodeaddr => exact ((Grows.refl s).complete _ _ _ _).outcome
  | setNodeaddr a => exact execSetNodeaddr_grows a s
  | check h v => exact execCheck_grows h v s
  | poll => exact (grows_runHandlers _ _ s).outcome_unless
  | setup => exact execSetup_grows s
  | edge src => exact (grows_setFlag s src).outcome
  | w8 => exact ((grows_writeTransaction s _ _ _).complete _ _ _ _).outcome_if
  | r4 => exact ((grows_transact s _).complete _ _ _ _).outcome_if
  | p8 => exact Grows.outcome (.of_view rfl)

/-! ### Every step -/

theorem grows_of_fetch {s s' : State} {inp : Input} (h : fetch s = some (inp, s')) : Grows s s' := by
  unfold fetch at h
  split at h <;> split at h <;> cases h <;> exact .of_view rfl

theorem grows_proceed (s : State) : Grows s (proceed s) := by
  unfold proceed
  split
  · exact .refl s
  · split
    · exact Grows.resumeActivation (.of_view (by rfl)) _
    · exact Grows.resumeActivation (.of_view (by rfl)) _
    · exact .refl s

theorem step_grows (s : State) : OutcomeGrows s (step s) := by
  unfold step
  split
  next inp s' taken =>
    have input : Grows s s' := grows_of_fetch taken
    split
    next i _ => exact fun t next => input.trans (exec_grows i s' t next)
    next reason _ => exact (input.trans (grows_refuse s' none reason)).outcome
  next => exact (grows_proceed s).outcome

/-- Settles O57: every step is in `Grows`. -/
theorem parametersStayAndLogsGrow : Obligations.ParametersStayAndLogsGrow := by
  intro s t next
  obtain ⟨params, irqDiag, irqIndex, txLog, events, results, shadow⟩ := step_grows s t next
  exact ⟨params, irqDiag, irqIndex, txLog, events, results, shadow⟩

end Sys2Proof.Machine
end

section
/-! SUPPORT. What the shared operations send, keep and leave suspended: the frames with the edges that fall inside them, the
configuration that stays, and the shape of an operation suspended at an emission. -/

namespace Sys2Proof.Machine

/-! ### Frames sent -/

/-- `t` is further than `s` on the line by `frames`: W8 and R4 frames, each of which has used up one answer
(spec/30_encoding.md R80, spec/40_transport.md R117). -/
structure Sends (s t : State) (frames : List (List Byte)) : Prop where
  sent : t.txLog = s.txLog ++ frames
  taken : t.wire = s.wire.drop frames.length
  each : ∀ bs ∈ frames, SentFrame bs

theorem Sends.of_same {s t : State} (txLog : t.txLog = s.txLog) (wire : t.wire = s.wire) : Sends s t [] :=
  ⟨by simp [txLog], by simp [wire], by simp⟩

theorem Sends.trans {s t u : State} {xs ys : List (List Byte)} (h : Sends s t xs) (k : Sends t u ys) :
    Sends s u (xs ++ ys) where
  sent := by rw [k.sent, h.sent, List.append_assoc]
  taken := by rw [k.taken, h.taken, List.drop_drop, List.length_append]
  each bs mem := (List.mem_append.1 mem).elim (h.each bs) (k.each bs)

theorem Sends.edgesTaken_eq {s t : State} {frames : List (List Byte)} (h : Sends s t frames) :
    edgesTaken s t = edgesOf s frames.length := by
  simp [edgesTaken, edgesOf, h.sent]

theorem Sends.edgesTaken_trans {s t u : State} {xs ys : List (List Byte)} (h : Sends s t xs) (k : Sends t u ys) :
    edgesTaken s u = edgesTaken s t ++ edgesTaken t u := by
  rw [h.edgesTaken_eq, k.edgesTaken_eq, (h.trans k).edgesTaken_eq]
  simp [edgesOf, h.taken, List.take_add]

theorem edgesTaken_of_same {s t : State} (txLog : t.txLog = s.txLog) : edgesTaken s t = [] := by
  simp [edgesTaken, txLog]

theorem sentFrame_buildR4 (node : NodeAddr) (reg : RegAddr) : SentFrame (buildR4 node reg) := .inr ⟨node, reg, rfl⟩

theorem sentFrame_buildW8 (node : NodeAddr) (reg : RegAddr) (v : Word) : SentFrame (buildW8 node reg v) :=
  .inl ⟨node, reg, v, rfl⟩

theorem AfterLine.sends {s t : State} {reads : List (State × RegAddr)} (h : AfterLine s t reads) :
    Sends s t (reads.map fun r => buildR4 s.node r.2) where
  sent := h.made.sent
  taken := by simpa using h.made.taken
  each bs mem := by
    obtain ⟨r, -, rfl⟩ := List.mem_map.1 mem
    exact sentFrame_buildR4 _ _

/-! ### Configuration and flags -/

/-- The phase and the configuration fields (spec/10_state.md R23). -/
def localConfig (s : State) : Phase × NodeAddr × Rat × Bool × Rat × Rat × Option Rat × Bool × Bool :=
  (s.phase, s.node, s.rsense, s.internalRsense, s.holdFraction, s.fosc, s.rmsTarget, s.irqDiag, s.irqIndex)

theorem SameButPoll.localConfig {s t : State} (h : SameButPoll s t) : Machine.localConfig t = Machine.localConfig s := by
  simp [Machine.localConfig, h.phase, h.node, h.rsense, h.internalRsense, h.holdFraction, h.fosc, h.rmsTarget, h.irqDiag,
    h.irqIndex]

theorem ConfigOk.of_localConfig {s t : State} (ok : ConfigOk s) (same : localConfig t = localConfig s) : ConfigOk t := by
  simp only [localConfig, Prod.mk.injEq] at same
  obtain ⟨-, -, rsense, -, hold, fosc, target, -, -⟩ := same
  exact ⟨rsense ▸ ok.rsense, fosc ▸ ok.fosc, hold ▸ ok.holdLow, hold ▸ ok.holdHigh, target ▸ ok.target⟩

/-- The input of the source is not taken from its flag (spec/42_edge_detector.md R203, R204). -/
def OffInterruptPath (s : State) : EdgeSrc → Prop
  | .diag => s.irqDiag = false
  | .index => s.irqIndex = false

theorem OffInterruptPath.of_localConfig {s t : State} {e : EdgeSrc} (off : OffInterruptPath s e)
    (same : localConfig t = localConfig s) : OffInterruptPath t e := by
  simp only [localConfig, Prod.mk.injEq] at same
  obtain ⟨-, -, -, -, -, -, -, irqDiag, irqIndex⟩ := same
  cases e
  · exact irqDiag.trans off
  · exact irqIndex.trans off

/-- From `s` to `t` an operation has sent frames and written no configuration. The flags of the sources in `kept` change by
the edges inside its transactions only; any other may be taken, and is set by these edges only
(spec/10_state.md R36, spec/42_edge_detector.md R200, R201). -/
structure Acts (kept : EdgeSrc → Prop) (s t : State) : Prop where
  config : localConfig t = localConfig s
  line : ∃ frames, Sends s t frames
  flag : ∀ e, kept e → flagOf t e = (flagOf s e || (edgesTaken s t).contains e)
  set : ∀ e, flagOf t e = true → flagOf s e = true ∨ (edgesTaken s t).contains e = true

theorem Acts.of_flag {kept : EdgeSrc → Prop} {s t : State} {frames : List (List Byte)}
    (config : localConfig t = localConfig s) (line : Sends s t frames)
    (flag : ∀ e, flagOf t e = (flagOf s e || (edgesTaken s t).contains e)) : Acts kept s t :=
  ⟨config, ⟨frames, line⟩, fun e _ => flag e, fun e set => by simpa using (flag e).symm.trans set⟩

/-- What `Acts` looks at. -/
def actsView (s : State) :
    (Phase × NodeAddr × Rat × Bool × Rat × Rat × Option Rat × Bool × Bool) × List (List Byte) × List WireAnswer ×
      (EdgeSrc → Bool) :=
  (localConfig s, s.txLog, s.wire, flagOf s)

theorem Acts.of_view {kept : EdgeSrc → Prop} {s t : State} (same : actsView t = actsView s) : Acts kept s t := by
  simp only [actsView, Prod.mk.injEq] at same
  obtain ⟨config, txLog, wire, flag⟩ := same
  exact .of_flag config (.of_same txLog wire) fun e => by simp [flag, edgesTaken_of_same txLog]

theorem Acts.trans {kept : EdgeSrc → Prop} {s t u : State} (h : Acts kept s t) (k : Acts kept t u) : Acts kept s u := by
  obtain ⟨xs, sent⟩ := h.line
  obtain ⟨ys, sent'⟩ := k.line
  have edges := sent.edgesTaken_trans sent'
  refine ⟨k.config.trans h.config, ⟨_, sent.trans sent'⟩, fun e kept => ?_, fun e set => ?_⟩
  · rw [k.flag e kept, h.flag e kept, edges, List.contains_append, Bool.or_assoc]
  · rw [edges, List.contains_append, Bool.or_eq_true]
    rcases k.set e set with before | inside
    · exact (h.set e before).imp id .inl
    · exact .inr (.inr inside)

theorem acts_clearFlag {kept : EdgeSrc → Prop} {src : EdgeSrc} (free : ¬ kept src) (s : State) :
    Acts kept s (clearFlag s src) := by
  have edges : edgesTaken s (clearFlag s src) = [] := edgesTaken_of_same (by simp)
  refine ⟨by simp [localConfig], ⟨[], .of_same (by simp) (by simp)⟩, fun e isKept => ?_, fun e set => ?_⟩
  · have other : e ≠ src := by rintro rfl; exact free isKept
    simp [edges, other]
  · rw [flagOf_clearFlag, Bool.and_eq_true] at set
    exact .inl set.1

/-! ### Operations that only use the line -/

/-- `t` is `s` after some transactions: as `Acts` with both flags kept, and the handlers, the events and what is suspended
unchanged. -/
structure LineOnly (s t : State) : Prop where
  acts : ∀ kept, Acts kept s t
  prev : t.prev = s.prev
  events : t.events = s.events
  stack : t.stack = s.stack

/-- What `LineOnly` looks at. -/
def lineView (s : State) :=
  (actsView s, s.prev, s.events, s.stack)

theorem LineOnly.of_view {s t : State} (same : lineView t = lineView s) : LineOnly s t := by
  simp only [lineView, Prod.mk.injEq] at same
  obtain ⟨acts, prev, events, stack⟩ := same
  exact ⟨fun _ => .of_view acts, prev, events, stack⟩

theorem LineOnly.refl (s : State) : LineOnly s s := .of_view rfl

theorem LineOnly.trans {s t u : State} (h : LineOnly s t) (k : LineOnly t u) : LineOnly s u :=
  ⟨fun kept => (h.acts kept).trans (k.acts kept), k.prev.trans h.prev, k.events.trans h.events, k.stack.trans h.stack⟩

theorem AfterLine.lineOnly {s t : State} {reads : List (State × RegAddr)} (h : AfterLine s t reads) : LineOnly s t where
  acts _ := .of_flag h.same.rest.localConfig h.sends fun
    | .diag => h.diag
    | .index => h.index
  prev := h.same.prev
  events := h.same.events
  stack := h.same.stack

theorem lineOnly_memRead (s : State) (reg : RegAddr) : LineOnly s (memRead s reg).state := by
  obtain ⟨reads, after, -⟩ := (memRead_gives s reg).line
  exact after.lineOnly

theorem edgesTaken_transact (s : State) (tx : List Byte) : edgesTaken s (transact s tx) = lineEdges s := by
  cases wire : s.wire <;> simp [edgesTaken, lineEdges, wire]

theorem lineOnly_transact (s : State) {tx : List Byte} (frame : SentFrame tx) : LineOnly s (transact s tx) where
  acts _ := by
    refine .of_flag rfl (frames := [tx]) ⟨rfl, by simp, by simpa using frame⟩ fun e => ?_
    rw [edgesTaken_transact]
    cases e <;> rfl
  prev := rfl
  events := rfl
  stack := rfl

theorem lineOnly_writeTransaction (s : State) {tx : List Byte} (frame : SentFrame tx) (reg : RegAddr) (v : Word) :
    LineOnly s (writeTransaction s tx reg v) := by
  have stored : LineOnly (transact s tx) (writeTransaction s tx reg v) := by
    unfold writeTransaction
    split <;> exact .of_view rfl
  exact (lineOnly_transact s frame).trans stored

theorem lineOnly_memWrite (s : State) (reg : RegAddr) (v : Word) : LineOnly s (memWrite s reg v) :=
  lineOnly_writeTransaction s (sentFrame_buildW8 _ _ _) reg v

theorem lineOnly_writeField (s : State) (f : FieldSpec) (v : Int) : LineOnly s (writeField s f v).state := by
  unfold writeField
  split
  · exact lineOnly_memWrite s _ _
  · exact (lineOnly_memRead s _).trans (lineOnly_memWrite _ _ _)

theorem LineOnly.writeNamed {s t : State} (h : LineOnly s t) (n : FieldName) (v : Int) :
    LineOnly s (Machine.writeNamed t n v).state :=
  h.trans (lineOnly_writeField t _ v)

theorem LineOnly.complete {s t : State} (h : LineOnly s t) (op : Instr) (value : Value) (ok : Option Bool)
    (warning : Option Warning) : LineOnly s (Machine.complete t op value ok warning) :=
  h.trans (.of_view rfl)

theorem lineOnly_refuse (s : State) (op : Option Instr) (reason : RefuseReason) : LineOnly s (refuse s op reason) :=
  .of_view rfl

/-! ### Operations that emit -/

theorem acts_finishEmitter (kept : EdgeSrc → Prop) (ctx : EmitterCtx) (s : State) : Acts kept s (finishEmitter ctx s) :=
  .of_view rfl

/-- A handler step, whether it ends or is suspended, acts on the line only by what follows it. -/
theorem acts_handlerStep {kept : EdgeSrc → Prop} (ctx : EmitterCtx) (h : Handler) (v : Bool) (pending : List Event)
    (rest : List Handler) {k : State → State} {s : State}
    (after : ∀ u, localConfig u = localConfig s → Acts kept u (k u)) :
    Acts kept s (handlerStep ctx h v pending rest k s) := by
  rcases handlerStep_cases ctx h v pending rest k s with ⟨-, ends⟩ | ⟨e, left, -, -, waits⟩
  · rw [ends]
    have step : Acts kept s (setPrev (afterEvents s pending) h v) := .of_view rfl
    exact step.trans (after _ step.config)
  · rw [waits]
    exact .of_view rfl

/-- The acquisition of an input takes a flag on its interrupt path only. -/
theorem acts_acquire {kept : EdgeSrc → Prop} (h : Handler) (snapshot : Option Word) (s : State)
    (off : ∀ e, kept e → OffInterruptPath s e) : Acts kept s (acquire h snapshot s).state := by
  rcases (acquire_gives h snapshot s).cases with ⟨reads, after, -⟩ | ⟨-, irq, -, taken⟩ | ⟨-, irq, -, taken⟩
  · exact after.lineOnly.acts kept
  · rw [taken]
    exact acts_clearFlag (src := .diag) (fun isKept => by simpa [OffInterruptPath, irq] using off _ isKept) s
  · rw [taken]
    exact acts_clearFlag (src := .index) (fun isKept => by simpa [OffInterruptPath, irq] using off _ isKept) s

theorem acts_runHandlers {kept : EdgeSrc → Prop} (hs : List Handler) (ctx : EmitterCtx) (s : State)
    (off : ∀ e, kept e → OffInterruptPath s e) : Acts kept s (runHandlers hs ctx s) := by
  induction hs generalizing ctx s with
  | nil => exact acts_finishEmitter kept ctx s
  | cons h rest ih =>
    have input := acts_acquire h ctx.snapshot s off
    exact input.trans (acts_handlerStep _ h _ _ rest fun u same =>
      ih _ u fun e isKept => (off e isKept).of_localConfig (same.trans input.config))

theorem acts_resumeActivation {kept : EdgeSrc → Prop} (a : Activation) (s : State)
    (off : ∀ e, kept e → OffInterruptPath s e) : Acts kept s (resumeActivation a s) :=
  acts_handlerStep _ _ _ _ _ fun u same => acts_runHandlers a.rest a.ctx u fun e isKept =>
    (off e isKept).of_localConfig same

/-! ### What is suspended -/

/-- The operation of `emitter`, run above the suspended operations `below`, has ended, or has been suspended itself with the
shape of a handler step (spec/42_edge_detector.md R193, R207, R214). -/
def Leaves (emitter : Emitter) (below : List Activation) (t : State) : Prop :=
  t.stack = below ∨ ∃ a, ActivationOk a ∧ a.ctx.emitter = emitter ∧ t.stack = a :: below

theorem leaves_finishEmitter (ctx : EmitterCtx) (s : State) : Leaves ctx.emitter s.stack (finishEmitter ctx s) := .inl rfl

theorem leaves_handlerStep (ctx : EmitterCtx) (h : Handler) (v : Bool) (pending : List Event) (rest : List Handler)
    {k : State → State} (s : State)
    (shape : ∀ e left, pending = e :: left →
      ActivationOk { ctx := ctx, handler := h, input := v, pending := left, rest := rest })
    (after : ∀ u, Leaves ctx.emitter u.stack (k u)) :
    Leaves ctx.emitter s.stack (handlerStep ctx h v pending rest k s) := by
  rcases handlerStep_cases ctx h v pending rest k s with ⟨-, ends⟩ | ⟨e, left, next, -, waits⟩
  · rw [ends]
    exact after _
  · rw [waits]
    exact .inr ⟨_, shape e left next, rfl, rfl⟩

theorem changeEvents_of_stepEvents {h : Handler} {p v : Bool} {e : Event} {left : List Event}
    (events : stepEvents h p v = e :: left) : changeEvents h v = e :: left := by
  rw [stepEvents_eq] at events
  split at events
  · cases events
  · exact events

theorem leaves_runHandlers (hs : List Handler) (order : hs <:+ handlerOrder) (ctx : EmitterCtx)
    (poll : ctx.emitter = .poll) (s : State) : Leaves ctx.emitter s.stack (runHandlers hs ctx s) := by
  induction hs generalizing ctx s with
  | nil => exact leaves_finishEmitter ctx s
  | cons h rest ih =>
    have input := (acquire_reads h ctx.snapshot s).same.stack
    rw [← input]
    refine leaves_handlerStep (withSample ctx _ _) h _ _ rest _ (fun e left next => ?_)
      fun u => ih ((List.suffix_cons h rest).trans order) (withSample ctx _ _) poll u
    exact
      { pending := ⟨e, [], changeEvents_of_stepEvents next⟩
        check := fun id v isCheck => by cases poll.symm.trans isCheck
        poll := fun _ => order }

/-- A suspended operation that goes on keeps its shape: what is still pending stays a rest of its step's events. -/
theorem leaves_resumeActivation {a : Activation} (ok : ActivationOk a) (s : State) :
    Leaves a.ctx.emitter s.stack (resumeActivation a s) := by
  refine leaves_handlerStep a.ctx a.handler a.input a.pending a.rest s (fun e left next => ?_) fun u => ?_
  · obtain ⟨emitted, before, events⟩ := ok.pending
    exact ⟨⟨e, before ++ [emitted], by simp [events, next]⟩, ok.check, ok.poll⟩
  · cases emitter : a.ctx.emitter with
    | check h v =>
      obtain ⟨-, -, last⟩ := ok.check h v emitter
      rw [last, ← emitter]
      exact leaves_finishEmitter a.ctx u
    | poll =>
      rw [← emitter]
      exact leaves_runHandlers a.rest ((List.suffix_cons _ _).trans (ok.poll emitter)) a.ctx emitter u

theorem onePoll_cons (a : Activation) (below : List Activation) :
    onePoll (a :: below) ↔
      onePoll below ∧ (a.ctx.emitter = .poll → ∀ b ∈ below, b.ctx.emitter ≠ .poll) := by
  by_cases poll : a.ctx.emitter = .poll
  · have none_left : onePoll (a :: below) ↔ ∀ b ∈ below, b.ctx.emitter ≠ .poll := by
      simp [onePoll, poll, List.filter_eq_nil_iff]
    rw [none_left]
    refine ⟨fun none => ⟨?_, fun _ => none⟩, fun h => h.2 poll⟩
    have empty : (below.filter fun b => b.ctx.emitter == .poll) = [] := by simpa [List.filter_eq_nil_iff] using none
    simp [onePoll, empty]
  · simp [onePoll, poll]

theorem inPoll_eq_false_iff (s : State) : inPoll s = false ↔ ∀ a ∈ s.stack, a.ctx.emitter ≠ .poll := by
  simp [inPoll]

/-! ### The invariant -/

theorem Acts.inv {kept : EdgeSrc → Prop} {s t : State} (acts : Acts kept s t) (config : ConfigOk s)
    (sent : ∀ bs ∈ s.txLog, SentFrame bs) (each : ∀ a ∈ t.stack, ActivationOk a) (one : onePoll t.stack) : Inv t := by
  obtain ⟨frames, line⟩ := acts.line
  refine ⟨config.of_localConfig acts.config, fun bs mem => ?_, each, one⟩
  rw [line.sent] at mem
  exact (List.mem_append.1 mem).elim (sent bs) (line.each bs)

theorem LineOnly.inv {s t : State} (h : LineOnly s t) (inv : Inv s) : Inv t :=
  (h.acts fun _ => True).inv inv.config inv.sent (h.stack ▸ inv.activations) (h.stack ▸ inv.onePoll)

/-- An operation that emits keeps the invariant, where a POLL runs above no other POLL. -/
theorem Leaves.inv {kept : EdgeSrc → Prop} {emitter : Emitter} {s t : State} {below : List Activation}
    (leaves : Leaves emitter below t) (acts : Acts kept s t) (config : ConfigOk s) (sent : ∀ bs ∈ s.txLog, SentFrame bs)
    (each : ∀ a ∈ below, ActivationOk a) (one : onePoll below)
    (alone : emitter = .poll → ∀ a ∈ below, a.ctx.emitter ≠ .poll) : Inv t := by
  rcases leaves with ended | ⟨a, ok, isEmitter, suspended⟩
  · exact acts.inv config sent (ended ▸ each) (ended ▸ one)
  · refine acts.inv config sent ?_ ?_
    · rw [suspended]
      exact List.forall_mem_cons.2 ⟨ok, each⟩
    · rw [suspended, onePoll_cons, isEmitter]
      exact ⟨one, alone⟩

end Sys2Proof.Machine
end

section
/-! SUPPORT. What an instruction may leave, said once (`Effect`, `exec_effect`), and the ways a step goes (`step_cases`). The
statements on every instruction and every step (O53, O55, O56, O60) are read off these. -/

namespace Sys2Proof.Machine

/-! ### Every instruction -/

/-- The state `t` that the instruction may leave from `s`: it uses the line only, after the one field of the configuration
that it writes; or it emits, rearms by SETUP, stores an edge, or adds an answer to the line (spec/10_state.md R36). -/
inductive Effect (s : State) : Instr → State → Prop
  | line {i : Instr} {t : State} (line : LineOnly s t) : Effect s i t
  | fosc {f : Rat} {t : State} (domain : 0 < f) (line : LineOnly { s with fosc := f } t) : Effect s (.setFosc f) t
  | rsense {r : Rat} {internal : Bool} {t : State} (domain : 0 < r)
      (line : LineOnly { s with rsense := r, internalRsense := internal } t) : Effect s (.setRsense r internal) t
  | holdFraction {f : Rat} {t : State} (low : 0 ≤ f) (high : f ≤ 1) (line : LineOnly { s with holdFraction := f } t) :
      Effect s (.setHoldfrac f) t
  | rmsTarget {amps : Rat} {t : State} (domain : 0 ≤ amps) (line : LineOnly { s with rmsTarget := some amps } t) :
      Effect s (.setRms amps) t
  | node {a : Int} {t : State} (config : s.phase = .config) (line : LineOnly { s with node := toNode a } t) :
      Effect s (.setNodeaddr a) t
  | check {h : Int} {v : Bool} {t : State} (acts : Acts (fun _ => True) s t) (leaves : Leaves (.check h v) s.stack t) :
      Effect s (.check h v) t
  | poll {t : State} (alone : inPoll s = false) (acts : Acts (OffInterruptPath s) s t)
      (leaves : Leaves .poll s.stack t) : Effect s .poll t
  | setup {t : State}
      (line : LineOnly { s with phase := .running, prev := .clear, diagFlag := false, indexFlag := false } t) :
      Effect s .setup t
  | edge {src : EdgeSrc} : Effect s (.edge src) (setFlag s src)
  | answer {reg : RegAddr} {data : Word} {crc : Byte} {a : WireAnswer} :
      Effect s (.p8 reg data crc) { s with wire := s.wire ++ [a] }

theorem effect_refuse (s : State) (i : Instr) (op : Option Instr) (reason : RefuseReason) :
    Effect s i (refuse s op reason) := .line (lineOnly_refuse s op reason)

/-- An instruction that is refused unless `c` holds. -/
theorem effect_if {s t : State} {i : Instr} {c : Prop} [Decidable c] {op : Option Instr} {reason : RefuseReason}
    (admitted : c → Effect s i t) : Effect s i (if c then t else refuse s op reason) := by
  split
  next holds => exact admitted holds
  next => exact effect_refuse s i op reason

/-- An instruction that is refused where `c` holds. -/
theorem effect_unless {s t : State} {i : Instr} {c : Prop} [Decidable c] {op : Option Instr} {reason : RefuseReason}
    (admitted : ¬ c → Effect s i t) : Effect s i (if c then refuse s op reason else t) := by
  split
  next => exact effect_refuse s i op reason
  next holds => exact admitted holds

theorem LineOnly.ends {s t : State} (h : LineOnly s t) {i op : Instr} {value : Value} {ok : Option Bool}
    {warning : Option Warning} : Effect s i (Machine.complete t op value ok warning) :=
  .line (h.complete op value ok warning)

theorem effect_setNamed (i op : Instr) (n : FieldName) (v : Int) (warning : Option Warning) (s : State) :
    Effect s i (setNamed op n v warning s) := (lineOnly_writeField s _ v).ends

theorem effect_getNamed (i op : Instr) (n : FieldName) (f : Int → Value) (s : State) :
    Effect s i (getNamed op n f s) := (lineOnly_memRead s _).ends

theorem effect_getRegister (i op : Instr) (reg : RegAddr) (s : State) : Effect s i (getRegister op reg s) :=
  (lineOnly_memRead s reg).ends

theorem execSetMstep_effect (n : Int) (s : State) : ∃ t, execSetMstep n s = .next t ∧ Effect s (.setMstep n) t := by
  refine ⟨_, rfl, ?_⟩
  split
  · exact effect_setNamed _ _ _ _ _ s
  · exact (LineOnly.refl s).ends

theorem execGetMstep_effect (s : State) : ∃ t, execGetMstep s = .next t ∧ Effect s .getMstep t := by
  have draw (u : State) : LineOnly u { u with draws := u.draws + 1 } := .of_view rfl
  exact ⟨_, rfl, ((lineOnly_memRead s _).trans (draw _)).ends⟩

theorem execSetRms_effect (amps : Rat) (s : State) : ∃ t, execSetRms amps s = .next t ∧ Effect s (.setRms amps) t := by
  refine ⟨_, rfl, effect_unless fun domain => .rmsTarget (not_lt.1 domain) ?_⟩
  exact ((((LineOnly.refl _).writeNamed _ _).writeNamed _ _).writeNamed _ _).complete _ _ _ _

theorem execSetNodeaddr_effect (a : Int) (s : State) :
    ∃ t, execSetNodeaddr a s = .next t ∧ Effect s (.setNodeaddr a) t := by
  refine ⟨_, rfl, effect_if fun _ => ?_⟩
  split
  next config => exact .node config ((LineOnly.refl _).complete _ _ _ _)
  next => exact effect_refuse s _ _ _

theorem execCheck_effect (h : Int) (v : Bool) (s : State) : ∃ t, execCheck h v s = .next t ∧ Effect s (.check h v) t := by
  refine ⟨_, rfl, ?_⟩
  split
  next hd isHandler =>
    refine .check (acts_handlerStep _ _ _ _ _ fun u _ => acts_finishEmitter _ _ u) ?_
    refine leaves_handlerStep _ hd v _ _ s (fun e left next => ?_) fun u => leaves_finishEmitter _ u
    exact
      { pending := ⟨e, [], changeEvents_of_stepEvents next⟩
        check := by
          rintro _ _ ⟨⟩
          exact ⟨isHandler, rfl, rfl⟩
        poll := nofun }
  next => exact effect_refuse s _ _ _

theorem execPoll_effect (s : State) : ∃ t, execPoll s = .next t ∧ Effect s .poll t :=
  ⟨_, rfl, effect_unless fun alone => .poll (by simpa using alone) (acts_runHandlers _ _ s fun _ => id)
    (leaves_runHandlers handlerOrder List.suffix_rfl _ rfl s)⟩

theorem execSetup_effect (s : State) : ∃ t, execSetup s = .next t ∧ Effect s .setup t :=
  ⟨_, rfl, effect_unless fun _ => .setup (.of_view rfl)⟩

theorem execW8_effect (node : NodeAddr) (reg : RegAddr) (data : Word) (crc : Byte) (s : State) :
    ∃ t, execW8 node reg data crc s = .next t ∧ Effect s (.w8 node reg data crc) t := by
  refine ⟨_, rfl, effect_if fun own => (lineOnly_writeTransaction s ?_ reg data).ends⟩
  simp only [Bool.and_eq_true, beq_iff_eq] at own
  rw [own.2]
  exact sentFrame_buildW8 node reg data

theorem execR4_effect (node : NodeAddr) (reg : RegAddr) (crc : Byte) (s : State) :
    ∃ t, execR4 node reg crc s = .next t ∧ Effect s (.r4 node reg crc) t := by
  refine ⟨_, rfl, effect_if fun own => (lineOnly_transact s ?_).ends⟩
  simp only [Bool.and_eq_true, beq_iff_eq] at own
  rw [own.2]
  exact sentFrame_buildR4 node reg

theorem exec_effect (i : Instr) (s : State) : ∃ t, exec i s = .next t ∧ Effect s i t := by
  cases i with
  | wreg => exact ⟨_, rfl, effect_if fun _ => (lineOnly_memWrite s _ _).ends⟩
  | rreg => exact ⟨_, rfl, effect_if fun _ => (lineOnly_memRead s _).ends⟩
  | rfld => exact ⟨_, rfl, effect_if fun _ => (lineOnly_memRead s _).ends⟩
  | wfld => exact ⟨_, rfl, effect_if fun _ => (lineOnly_writeField s _ _).ends⟩
  | setMstep n => exact execSetMstep_effect n s
  | getMstep => exact execGetMstep_effect s
  | setIholddelay | setIholddelayMs | setTpowerdown | setTpowerdownMs | setTcoolthrs =>
    exact ⟨_, rfl, effect_unless fun _ => effect_setNamed _ _ _ _ _ s⟩
  | getIholddelay | getIholddelayMs | getTpowerdown | getTpowerdownMs | getTcoolthrs | getVersion =>
    exact ⟨_, rfl, effect_getNamed _ _ _ _ s⟩
  | setSgthrs => exact ⟨_, rfl, effect_if fun _ => (lineOnly_memWrite s _ _).ends⟩
  | getSgthrs | getSgresult => exact ⟨_, rfl, effect_getRegister _ _ _ s⟩
  | csFwd => exact ⟨_, rfl, effect_unless fun _ => (LineOnly.refl s).ends⟩
  | csInv => exact ⟨_, rfl, effect_if fun _ => (LineOnly.refl s).ends⟩
  | setRms amps => exact execSetRms_effect amps s
  | getRms => exact ⟨_, rfl, ((lineOnly_memRead s _).trans (lineOnly_memRead _ _)).ends⟩
  | setHoldfrac f =>
    refine ⟨_, rfl, effect_unless fun domain => ?_⟩
    obtain ⟨low, high⟩ := not_or.1 domain
    exact .holdFraction (not_lt.1 low) (not_lt.1 high) (.of_view rfl)
  | setRsense => exact ⟨_, rfl, effect_unless fun domain => .rsense (not_le.1 domain) (.of_view rfl)⟩
  | setFosc => exact ⟨_, rfl, effect_unless fun domain => .fosc (not_le.1 domain) (.of_view rfl)⟩
  | getHoldfrac | getRsense | getFosc | getNodeaddr => exact ⟨_, rfl, (LineOnly.refl s).ends⟩
  | setNodeaddr a => exact execSetNodeaddr_effect a s
  | check h v => exact execCheck_effect h v s
  | poll => exact execPoll_effect s
  | setup => exact execSetup_effect s
  | edge => exact ⟨_, rfl, .edge⟩
  | w8 node reg data crc => exact execW8_effect node reg data crc s
  | r4 node reg crc => exact execR4_effect node reg crc s
  | p8 => exact ⟨_, rfl, .answer⟩

theorem effect_of_exec {i : Instr} {s t : State} (next : exec i s = .next t) : Effect s i t := by
  obtain ⟨u, leaves, effect⟩ := exec_effect i s
  cases leaves.symm.trans next
  exact effect

theorem Effect.inv {i : Instr} {s t : State} (effect : Effect s i t) (inv : Inv s) : Inv t := by
  have config := inv.config
  cases effect with
  | line line => exact line.inv inv
  | fosc domain line => exact line.inv { inv with config := { config with fosc := domain } }
  | rsense domain line => exact line.inv { inv with config := { config with rsense := domain } }
  | holdFraction low high line => exact line.inv { inv with config := { config with holdLow := low, holdHigh := high } }
  | rmsTarget domain line =>
    exact line.inv { inv with config := { config with target := fun q stored => by cases stored; exact domain } }
  | node _ line => exact line.inv { inv with config := { config with } }
  | check acts leaves => exact leaves.inv acts config inv.sent inv.activations inv.onePoll nofun
  | poll alone acts leaves =>
    exact leaves.inv acts config inv.sent inv.activations inv.onePoll fun _ => (inPoll_eq_false_iff s).1 alone
  | setup line => exact line.inv { inv with config := { config with } }
  | edge =>
    exact ⟨config.of_localConfig (by simp [localConfig]), by simpa using inv.sent, by simpa using inv.activations,
      by simpa using inv.onePoll⟩
  | answer => exact { inv with config := { config with } }

/-! ### Every step -/

/-- A step runs the decoded instruction on the state with its input taken. -/
theorem step_of_fetch {s s' : State} {inp : Input} {i : Instr} (taken : fetch s = some (inp, s'))
    (decoded : decode inp = .ok i) : step s = exec i s' := by
  simp [step, taken, decoded]

theorem step_of_fetch_none {s : State} (empty : fetch s = none) : step s = .next (proceed s) := by simp [step, empty]

/-- Without an input a block idles or waits, or its innermost operation goes on with that operation taken off the stack. -/
theorem proceed_cases (s : State) :
    proceed s = s ∨
    ∃ a below nest, s.stack = a :: below ∧ proceed s = resumeActivation a { s with stack := below, nest := nest } := by
  unfold proceed
  split
  next => exact .inl rfl
  next a below stack =>
    split
    next nest => exact .inr ⟨a, below, s.nest, stack, rfl⟩
    next rest _ => exact .inr ⟨a, below, rest, stack, rfl⟩
    next => exact .inl rfl

theorem acts_proceed (s : State) : Acts (OffInterruptPath s) s (proceed s) := by
  rcases proceed_cases s with idle | ⟨a, below, nest, -, resumed⟩
  · rw [idle]
    exact .of_view rfl
  · rw [resumed]
    have popped : Acts (OffInterruptPath s) s { s with stack := below, nest := nest } := .of_view rfl
    exact popped.trans (acts_resumeActivation a _ fun _ off => off)

theorem proceed_inv {s : State} (inv : Inv s) : Inv (proceed s) := by
  rcases proceed_cases s with idle | ⟨a, below, nest, stack, resumed⟩
  · rwa [idle]
  · have acts := acts_proceed s
    rw [resumed] at acts ⊢
    obtain ⟨config, sent, activations, one⟩ := inv
    rw [stack] at activations one
    obtain ⟨ok, each⟩ := List.forall_mem_cons.1 activations
    obtain ⟨one, alone⟩ := (onePoll_cons a below).1 one
    exact (leaves_resumeActivation ok _).inv acts config sent each one alone

/-- What taking an input leaves unchanged: everything but the two queues. -/
theorem lineOnly_fetch {s s' : State} {inp : Input} (taken : fetch s = some (inp, s')) : LineOnly s s' := by
  unfold fetch at taken
  split at taken <;> split at taken <;> cases taken <;> exact .of_view rfl

/-- A step runs an instruction on the state with its input taken, refuses an input that is none, or goes on. -/
theorem step_cases (s : State) :
    (∃ inp s' i, fetch s = some (inp, s') ∧ step s = exec i s') ∨
    (∃ inp s' reason, fetch s = some (inp, s') ∧ step s = .next (refuse s' none reason)) ∨
    (fetch s = none ∧ step s = .next (proceed s)) := by
  cases taken : fetch s with
  | none => exact .inr (.inr ⟨rfl, step_of_fetch_none taken⟩)
  | some input =>
    obtain ⟨inp, s'⟩ := input
    cases decoded : decode inp with
    | ok i => exact .inl ⟨inp, s', i, rfl, step_of_fetch taken decoded⟩
    | error reason => exact .inr (.inl ⟨inp, s', reason, rfl, by simp [step, taken, decoded]⟩)

/-- Settles O60: each way a step goes keeps the invariant. -/
theorem everyStepKeepsTheInvariant : Obligations.EveryStepKeepsTheInvariant := by
  intro s t inv next
  rcases step_cases s with ⟨inp, s', i, taken, runs⟩ | ⟨inp, s', reason, taken, refused⟩ | ⟨-, goesOn⟩
  · exact (effect_of_exec (runs.symm.trans next)).inv ((lineOnly_fetch taken).inv inv)
  · cases refused.symm.trans next
    exact ((lineOnly_fetch taken).trans (lineOnly_refuse s' none reason)).inv inv
  · cases goesOn.symm.trans next
    exact proceed_inv inv

/-! ### The configuration and the flags -/

theorem phase_of_localConfig {s t : State} (same : localConfig t = localConfig s) : t.phase = s.phase :=
  congrArg Prod.fst same

theorem node_of_localConfig {s t : State} (same : localConfig t = localConfig s) : t.node = s.node :=
  congrArg (·.2.1) same

theorem LineOnly.config {s t : State} (h : LineOnly s t) : localConfig t = localConfig s :=
  (h.acts fun _ => True).config

theorem Effect.fixed_when_running {i : Instr} {s t : State} (effect : Effect s i t) (running : s.phase = .running) :
    t.phase = .running ∧ t.node = s.node := by
  have kept {u : State} (same : localConfig t = localConfig u) (phase : u.phase = .running) (node : u.node = s.node) :
      t.phase = .running ∧ t.node = s.node :=
    ⟨(phase_of_localConfig same).trans phase, (node_of_localConfig same).trans node⟩
  cases effect with
  | line line | fosc _ line | rsense _ line | holdFraction _ _ line | rmsTarget _ line => exact kept line.config running rfl
  | node config line => cases running.symm.trans config
  | check acts _ | poll _ acts _ => exact kept acts.config running rfl
  | setup line => exact kept line.config rfl rfl
  | edge => exact ⟨by simpa using running, by simp⟩
  | answer => exact ⟨running, rfl⟩

/-- Settles O55: SET_NODEADDR writes in phase CONFIG only, and SETUP is the one instruction that writes the phase. -/
theorem nodeAddressIsFixedAfterSetup : Obligations.NodeAddressIsFixedAfterSetup := by
  intro s t next running
  rcases step_cases s with ⟨inp, s', i, taken, runs⟩ | ⟨inp, s', reason, taken, refused⟩ | ⟨-, goesOn⟩
  · have input := (lineOnly_fetch taken).config
    obtain ⟨phase, node⟩ :=
      (effect_of_exec (runs.symm.trans next)).fixed_when_running ((phase_of_localConfig input).trans running)
    exact ⟨phase, node.trans (node_of_localConfig input)⟩
  · cases refused.symm.trans next
    have same := ((lineOnly_fetch taken).trans (lineOnly_refuse s' none reason)).config
    exact ⟨(phase_of_localConfig same).trans running, node_of_localConfig same⟩
  · cases goesOn.symm.trans next
    have same := (acts_proceed s).config
    exact ⟨(phase_of_localConfig same).trans running, node_of_localConfig same⟩

/-- The configuration fields that an instruction other than the one that sets them keeps (spec/10_state.md R36). -/
theorem Effect.config_kept {i : Instr} {s t : State} (effect : Effect s i t) :
    ((∀ f, i ≠ .setFosc f) → t.fosc = s.fosc) ∧
    ((∀ r b, i ≠ .setRsense r b) → t.rsense = s.rsense ∧ t.internalRsense = s.internalRsense) ∧
    ((∀ f, i ≠ .setHoldfrac f) → t.holdFraction = s.holdFraction) ∧
    ((∀ q, i ≠ .setRms q) → t.rmsTarget = s.rmsTarget) ∧
    ((∀ a, i ≠ .setNodeaddr a) → t.node = s.node) ∧
    (i ≠ .setup → t.phase = s.phase) := by
  cases effect with
  | line line | fosc _ line | rsense _ line | holdFraction _ _ line | rmsTarget _ line | node _ line | setup line =>
    have same := line.config
    simp only [localConfig, Prod.mk.injEq] at same
    simp [same]
  | check acts _ | poll _ acts _ =>
    have same := acts.config
    simp only [localConfig, Prod.mk.injEq] at same
    simp [same]
  | edge => simp
  | answer => simp

theorem Effect.emission_kept {i : Instr} {s t : State} (effect : Effect s i t) (notPoll : i ≠ .poll)
    (notCheck : ∀ h v, i ≠ .check h v) (notSetup : i ≠ .setup) :
    t.prev = s.prev ∧ t.events = s.events ∧ t.stack = s.stack := by
  cases effect with
  | line line | fosc _ line | rsense _ line | holdFraction _ _ line | rmsTarget _ line | node _ line =>
    exact ⟨line.prev, line.events, line.stack⟩
  | check => exact absurd rfl (notCheck _ _)
  | poll => exact absurd rfl notPoll
  | setup => exact absurd rfl notSetup
  | edge => simp
  | answer => exact ⟨rfl, rfl, rfl⟩

theorem Effect.flag_kept {i : Instr} {s t : State} (effect : Effect s i t) (e : EdgeSrc) (notSetup : i ≠ .setup)
    (offPath : i = .poll → OffInterruptPath s e) (notEdge : i ≠ .edge e) :
    flagOf t e = (flagOf s e || (edgesTaken s t).contains e) := by
  cases effect with
  | line line | fosc _ line | rsense _ line | holdFraction _ _ line | rmsTarget _ line | node _ line =>
    exact (line.acts fun _ => True).flag e trivial
  | check acts _ => exact acts.flag e trivial
  | poll _ acts _ => exact acts.flag e (offPath rfl)
  | setup => exact absurd rfl notSetup
  | @edge src =>
    have other : e ≠ src := by
      rintro rfl
      exact notEdge rfl
    simp [edgesTaken_of_same, other]
  | answer => simp [edgesTaken_of_same, flagOf]

theorem Effect.flag_set {i : Instr} {s t : State} (effect : Effect s i t) (e : EdgeSrc) (notEdge : i ≠ .edge e)
    (set : flagOf t e = true) : flagOf s e = true ∨ (edgesTaken s t).contains e = true := by
  by_cases clears : i = .setup ∨ i = .poll
  · cases effect with
    | line line => exact (line.acts fun _ => True).set e set
    | poll _ acts _ => exact acts.set e set
    | setup line =>
      refine .inr (((line.acts fun _ => True).set e set).resolve_left ?_)
      cases e <;> simp [flagOf]
    | _ => simp at clears
  · obtain ⟨notSetup, notPoll⟩ := not_or.1 clears
    simpa [effect.flag_kept e notSetup (absurd · notPoll) notEdge] using set

/-- Settles O56: every instruction by its effect, and what goes on by what its handler steps act. -/
theorem onlyTheNamedOperationsWriteConfiguration : Obligations.OnlyTheNamedOperationsWriteConfiguration := by
  refine ⟨fun i s t next => ?_, fun s t empty next => ?_⟩
  · have effect := effect_of_exec next
    obtain ⟨fosc, rsense, holdFraction, rmsTarget, node, phase⟩ := effect.config_kept
    exact ⟨fosc, rsense, holdFraction, rmsTarget, node, phase, effect.emission_kept, effect.flag_kept .diag,
      effect.flag_kept .index, effect.flag_set .diag, effect.flag_set .index⟩
  · cases (step_of_fetch_none empty).symm.trans next
    obtain ⟨same, -, flag, set⟩ := acts_proceed s
    simp only [localConfig, Prod.mk.injEq] at same
    obtain ⟨phase, node, rsense, internal, hold, fosc, target, -, -⟩ := same
    exact ⟨fosc, rsense, internal, hold, target, node, phase, flag .diag, flag .index, set .diag, set .index⟩

/-- Settles O53: both queues by the equations of `fetch`. -/
theorem stepRunsTheDecodedInstruction : Obligations.StepRunsTheDecodedInstruction := by
  intro s inp i decoded
  refine ⟨fun rest idle port => ?_, fun rest suspended nest => ?_⟩
  · exact step_of_fetch (by simp [fetch, idle, port]) decoded
  · obtain ⟨a, below, stack⟩ := List.exists_cons_of_ne_nil suspended
    exact step_of_fetch (by simp [fetch, stack, nest]) decoded

end Sys2Proof.Machine
end

section
/-! SUPPORT. The shadow of a class-W register (O12), and a POLL that no listener interrupts (O43). -/

namespace Sys2Proof.Machine

/-! ### The shadow -/

theorem isU7_toNat (reg : RegAddr) : isU7 (reg.toNat : Int) = true := by
  have := reg.isLt
  simp only [isU7, fitsUnsigned, decide_eq_true_eq]
  omega

theorem isU32_toNat (v : Word) : isU32 (v.toNat : Int) = true := by
  have := v.isLt
  simp only [isU32, fitsUnsigned, decide_eq_true_eq]
  omega

@[simp] theorem toAddr_toNat (reg : RegAddr) : toAddr (reg.toNat : Int) = reg := by simp [toAddr]

@[simp] theorem toWord_toNat (v : Word) : toWord (v.toNat : Int) = v := by simp [toWord]

theorem exec_wreg_toNat (reg : RegAddr) (v : Word) (s : State) :
    exec (.wreg reg.toNat v.toNat) s =
      .next (complete (memWrite s reg v) (.wreg reg.toNat v.toNat) .none none none) := by
  simp [exec, execWreg, isU7_toNat, isU32_toNat]

theorem exec_rreg_toNat (reg : RegAddr) (s : State) :
    exec (.rreg reg.toNat) s =
      .next (complete (memRead s reg).state (.rreg reg.toNat) (.word (memRead s reg).value) (some (memRead s reg).ok)
        none) := by
  simp [exec, execRreg, isU7_toNat]

theorem memRead_of_shadowRead {s : State} {reg : RegAddr} (shadow : ShadowRead s reg) :
    memRead s reg = { value := s.shadow[reg.toNat]'reg.isLt, ok := true, state := s } := by
  simp [memRead, (readsShadow_iff s reg).2 shadow]

/-- Settles O12: WREG stores the word in the shadow, and the read of a class-W register is served from there. -/
theorem shadowReadsBackWhatWasWritten : Obligations.ShadowReadsBackWhatWasWritten := by
  intro s reg v shadow
  refine ⟨_, exec_wreg_toNat reg v s, ?_⟩
  generalize written : complete (memWrite s reg v) (.wreg reg.toNat v.toNat) .none none none = t
  have params : t.params = s.params := by simp [← written, memWrite]
  have stored : t.shadow = s.shadow.set reg.toNat v reg.isLt := by simp [← written, memWrite, shadow.1]
  have shadow' : ShadowRead t reg := by rwa [ShadowRead, params]
  have read := memRead_of_shadowRead shadow'
  simp only [stored, Vector.getElem_set_self] at read
  rw [exec_rreg_toNat, read]

/-! ### A poll without listeners -/

/-- The input of a handler is got by reads, whether or not a flag is taken with it. -/
theorem InputGives.made {h : Handler} {snapshot snapshot' : Option Word} {s t : State} {v ok : Bool}
    (gives : InputGives h snapshot s v ok snapshot' t) :
    ∃ reads, ReadsMade s t reads ∧ t.node = s.node ∧ t.irqIndex = s.irqIndex := by
  have sameLine {u : State} (tx : u.txLog = s.txLog) (wire : u.wire = s.wire) : ReadsMade s u [] :=
    ⟨by simp [tx], by simp [wire], by simp⟩
  rcases gives.cases with ⟨reads, after, -⟩ | ⟨-, -, -, rfl⟩ | ⟨-, -, -, rfl⟩
  · exact ⟨reads, after.made, after.same.rest.node, after.same.rest.irqIndex⟩
  · exact ⟨[], sameLine rfl rfl, rfl, rfl⟩
  · exact ⟨[], sameLine rfl rfl, rfl, rfl⟩

/-- A run that begins with the diag handler on its interrupt path takes the flag, so that the edges inside the reads that
follow are all that it holds afterwards. -/
theorem RunGives.diag_taken {rest : List Handler} {ctx ctx' : EmitterCtx} {s t : State}
    (run : RunGives (.diag :: rest) ctx s ctx' t) (once : .diag ∉ rest) (irq : s.irqDiag = true) :
    t.diagFlag = (edgesTaken s t).contains .diag := by
  obtain ⟨v, ok, snapshot, u, gives, run⟩ := run
  obtain ⟨-, taken⟩ := gives
  rw [if_pos irq] at taken
  obtain ⟨-, -, rfl⟩ := taken
  obtain ⟨reads, after⟩ := run.reads
  exact (after.diag (.inr once)).trans (Bool.false_or _)

/-- After a run in which the index handler takes its flag, an edge inside a read is all that may have set it. -/
theorem RunGives.index_taken {hs : List Handler} {ctx ctx' : EmitterCtx} {s t : State} (run : RunGives hs ctx s ctx' t)
    (mem : .index ∈ hs) (irq : s.irqIndex = true) (set : t.indexFlag = true) :
    (edgesTaken s t).contains .index = true := by
  induction hs generalizing ctx s with
  | nil => cases mem
  | cons h rest ih =>
    obtain ⟨v, ok, snapshot, u, gives, run⟩ := run
    obtain ⟨later, after⟩ := run.reads
    cases mem with
    | head =>
      obtain ⟨-, -, taken⟩ := gives
      rw [if_pos irq] at taken
      obtain ⟨-, rfl⟩ := taken
      exact (after.indexSet set).resolve_left (by simp [afterStep])
    | tail _ mem =>
      obtain ⟨reads, made, node, irqIndex⟩ := gives.made
      have made' : ReadsMade u t later := ⟨after.made.sent, after.made.taken, after.made.each⟩
      have inside : (edgesTaken u t).contains .index = true :=
        ih (s := afterStep u h v) run mem (irqIndex.trans irq)
      rw [edgesTaken_trans made made' node, List.contains_append, inside, Bool.or_true]

theorem finishEmitter_poll {ctx : EmitterCtx} (poll : ctx.emitter = .poll) (s : State) :
    finishEmitter ctx s = pollEnds ctx s := by
  simp [finishEmitter, pollEnds, poll, emitterInstr, emitterOk]

theorem exec_poll_of_no_poll {s : State} (alone : ¬ PollInProgress s) :
    exec .poll s = .next (runHandlers handlerOrder pollStart s) := by
  have outside : inPoll s = false := (inPoll_eq_false_iff s).2 fun a mem poll => alone ⟨a, mem, poll⟩
  simp [exec, execPoll, outside, pollStart]

/-- Settles O43: the run of the nine handlers, the reads it makes, and the flags it takes. -/
theorem pollCompletesWithinNineReads : Obligations.PollCompletesWithinNineReads := by
  intro s quiet alone
  obtain ⟨ctx, t, run, emitter, ends⟩ := runHandlers_gives handlerOrder pollStart s quiet
  obtain ⟨reads, r⟩ := run.reads
  have reported : t.events = s.events ++ ctx.events := by
    obtain ⟨es, emitted, reported⟩ := r.events
    rw [emitted, reported]
    rfl
  have polled : exec .poll s = .next (pollEnds ctx t) := by
    rw [exec_poll_of_no_poll alone, ends, finishEmitter_poll emitter]
  exact ⟨ctx, t, reads, run, polled, r.made, r.few, by simpa [pollStart] using r.ok, reported, r.same, r.stack, r.results,
    fun off => r.diag (.inl off), fun irq => run.diag_taken (by decide) irq, fun off => r.index (.inl off),
    fun irq set => run.index_taken (by decide) irq set⟩

end Sys2Proof.Machine
end

section
/-! SUPPORT. The operations that only write, where they are admitted, as one write transaction, and that such a transaction
does not look at the bytes WIRE answers (O11). -/

namespace Sys2Proof.Machine

/-! ### The admitted writes -/

theorem exec_setSgthrs_of_u8 {v : Int} (low : 0 ≤ v) (high : v ≤ 255) (s : State) :
    exec (.setSgthrs v) s = .next (complete (memWrite s regSgthrs (toWord v)) (.setSgthrs v) .none none none) := by
  have admitted : isU8 v = true := by
    simp only [isU8, fitsUnsigned, decide_eq_true_eq]
    omega
  simp [exec, execSetSgthrs, admitted]

theorem writeField_of_covers {f : FieldSpec} (covers : coversRegister f = true) (s : State) (v : Int) :
    writeField s f v = { value := (), ok := true, state := memWrite s (fieldAddr f) (toWord v) } := if_pos covers

theorem exec_wfld_of_covers {s : State} {f : FieldRef} {spec : FieldSpec}
    (named : resolveField s.params.fieldTable f = spec) (wellFormed : fieldSpecOk spec = true)
    (covers : coversRegister spec = true) (v : Int) :
    exec (.wfld f v) s =
      .next (complete (memWrite s (fieldAddr spec) (toWord v)) (.wfld f v) .none (some true) none) := by
  simp [exec, execWfld, named, wellFormed, writeField_of_covers covers]

theorem exec_w8_own {s : State} {node : NodeAddr} (own : s.node = node) (reg : RegAddr) (v : Word) :
    exec (.w8 node reg v (crc8 (w8Body node reg v))) s =
      .next (complete (memWrite s reg v) (.w8 node reg v (crc8 (w8Body node reg v))) .none none none) := by
  simp [exec, execW8, memWrite, buildW8, own]

/-! ### The answer to a write -/

/-- `s` with an answer of WIRE before all others. -/
def withAnswer (s : State) (rx : WireRx) (es : List EdgeSrc) (rest : List WireAnswer) : State :=
  { s with wire := { rx := rx, edges := es } :: rest }

@[simp] theorem withAnswer_node (s : State) (rx : WireRx) (es : List EdgeSrc) (rest : List WireAnswer) :
    (withAnswer s rx es rest).node = s.node := rfl
@[simp] theorem withAnswer_shadow (s : State) (rx : WireRx) (es : List EdgeSrc) (rest : List WireAnswer) :
    (withAnswer s rx es rest).shadow = s.shadow := rfl
@[simp] theorem withAnswer_params (s : State) (rx : WireRx) (es : List EdgeSrc) (rest : List WireAnswer) :
    (withAnswer s rx es rest).params = s.params := rfl

/-- A transaction uses up the answer and keeps the edges that came with it; its bytes are only in the answer. -/
theorem transact_withAnswer (s : State) (rx₁ rx₂ : WireRx) (es : List EdgeSrc) (rest : List WireAnswer) (tx : List Byte) :
    transact (withAnswer s rx₁ es rest) tx = transact (withAnswer s rx₂ es rest) tx := rfl

theorem memWrite_withAnswer (s : State) (rx₁ rx₂ : WireRx) (es : List EdgeSrc) (rest : List WireAnswer) (reg : RegAddr)
    (v : Word) : memWrite (withAnswer s rx₁ es rest) reg v = memWrite (withAnswer s rx₂ es rest) reg v := by
  simp only [memWrite, writeTransaction, withAnswer_params, withAnswer_node, withAnswer_shadow,
    transact_withAnswer s rx₁ rx₂]

/-- Settles O11: each form is one `memWrite`, completed with nothing that was read. -/
theorem writesIgnoreTheAnswer : Obligations.WritesIgnoreTheAnswer := by
  intro s i rx₁ rx₂ es rest onlyWrites
  have same := memWrite_withAnswer s rx₁ rx₂ es rest
  change exec i (withAnswer s rx₁ es rest) = exec i (withAnswer s rx₂ es rest)
  rcases onlyWrites with ⟨reg, v, rfl⟩ | ⟨v, low, high, rfl⟩ | ⟨f, v, wellFormed, covers, rfl⟩ | ⟨reg, v, rfl⟩
  · rw [exec_wreg_toNat, exec_wreg_toNat, same]
  · rw [exec_setSgthrs_of_u8 low high, exec_setSgthrs_of_u8 low high, same]
  · have named (rx : WireRx) : resolveField (withAnswer s rx es rest).params.fieldTable f =
        resolveField s.params.fieldTable f := by rw [withAnswer_params]
    have write (rx : WireRx) := exec_wfld_of_covers (named rx) wellFormed covers v
    rw [write rx₁, write rx₂, same]
  · have write (rx : WireRx) := exec_w8_own (withAnswer_node s rx es rest) reg v
    rw [write rx₁, write rx₂, same]

end Sys2Proof.Machine
end

section
/-! SUPPORT. The frames and the CRC: each byte of a frame and the field it carries give each other back, a reply is read of
the bytes it was built of, and CRC8 is the loop of spec/30_encoding.md R82 on numbers (O5, O9, O8). -/

namespace Sys2Proof.Machine

/-! ### The bytes of a frame -/

@[simp] theorem nodeOfByte_nodeByte (node : NodeAddr) : nodeOfByte (nodeByte node) = node := by
  simp [nodeOfByte, nodeByte]

@[simp] theorem nodeByte_upper (node : NodeAddr) : (nodeByte node).extractLsb' 2 6 = 0#6 := by
  ext i hi
  simp [nodeByte]

theorem nodeByte_nodeOfByte {b : Byte} (upper : b.extractLsb' 2 6 = 0#6) : nodeByte (nodeOfByte b) = b := by
  have small : b.toNat < 4 := by
    have upper : (b.extractLsb' 2 6).toNat = 0 := congrArg BitVec.toNat upper
    rw [BitVec.extractLsb'_toNat, Nat.shiftRight_eq_div_pow] at upper
    omega
  apply BitVec.eq_of_toNat_eq
  simpa [nodeByte, nodeOfByte, Nat.mod_eq_of_lt small] using b.isLt

@[simp] theorem regOfByte_readRegByte (reg : RegAddr) : regOfByte (readRegByte reg) = reg := by
  simp [regOfByte, readRegByte]

@[simp] theorem regOfByte_writeRegByte (reg : RegAddr) : regOfByte (writeRegByte reg) = reg := by
  ext i hi
  simp [regOfByte, writeRegByte]

@[simp] theorem msb_readRegByte (reg : RegAddr) : (readRegByte reg).msb = false := by
  simp [readRegByte, BitVec.msb_setWidth]

@[simp] theorem msb_writeRegByte (reg : RegAddr) : (writeRegByte reg).msb = true := by
  simp [writeRegByte, BitVec.msb_or, show (0x80#8).msb = true from rfl]

theorem readRegByte_regOfByte {b : Byte} (msb : b.msb = false) : readRegByte (regOfByte b) = b := by
  have small : b.toNat < 128 := by simpa [BitVec.msb_eq_decide] using msb
  apply BitVec.eq_of_toNat_eq
  simpa [readRegByte, regOfByte, Nat.mod_eq_of_lt small] using b.isLt

theorem writeRegByte_regOfByte {b : Byte} (msb : b.msb = true) : writeRegByte (regOfByte b) = b := by
  have topBit : (0x80#8 : Byte) = BitVec.twoPow 8 7 := rfl
  rw [BitVec.msb_eq_getLsbD_last] at msb
  ext i hi
  by_cases top : i = 7
  · simp_all [writeRegByte]
  · have low : i < 7 := by omega
    simp [writeRegByte, regOfByte, topBit, top, low, BitVec.getLsbD_eq_getElem hi]

theorem dataBytes_joinBytes (b3 b2 b1 b0 : Byte) : dataBytes (joinBytes b3 b2 b1 b0) = [b3, b2, b1, b0] := by
  simp only [joinBytes, dataBytes, dataByte, List.cons.injEq, and_true]
  refine ⟨?_, ?_, ?_, ?_⟩ <;> ext i hi <;> simp <;> grind

@[simp] theorem joinBytes_dataByte (v : Word) :
    joinBytes (dataByte 3 v) (dataByte 2 v) (dataByte 1 v) (dataByte 0 v) = v := by
  simp only [joinBytes, dataByte]
  rw [BitVec.extractLsb'_append_extractLsb'_eq_extractLsb' (by rfl),
    BitVec.extractLsb'_append_extractLsb'_eq_extractLsb' (by rfl),
    BitVec.extractLsb'_append_extractLsb'_eq_extractLsb' (by rfl)]
  exact BitVec.extractLsb'_eq_self

/-! ### Replies -/

/-- A reply with the bytes of `p8Body` is well-formed exactly if its last byte is their CRC. -/
theorem replyWellFormed_p8 (reg : RegAddr) (v : Word) (crc : Byte) :
    replyWellFormed (p8Body reg v ++ [crc]) reg = decide (crc = crc8 (p8Body reg v)) := by
  simp only [replyWellFormed, p8Body, dataBytes, List.cons_append, List.nil_append, beq_self_eq_true, Bool.true_and]
  exact beq_eq_decide crc _

@[simp] theorem replyValue_p8 (reg : RegAddr) (v : Word) (crc : Byte) : replyValue (p8Body reg v ++ [crc]) = v :=
  joinBytes_dataByte v

/-- Eight bytes that pass the four tests are the reply that carries the word they spell. -/
theorem eq_buildP8_of_wellFormed {r : List Byte} {reg : RegAddr} (wellFormed : replyWellFormed r reg = true) :
    r = buildP8 reg (replyValue r) := by
  unfold replyWellFormed at wellFormed
  split at wellFormed
  next b0 b1 b2 b3 b4 b5 b6 b7 =>
    simp only [Bool.and_eq_true, beq_iff_eq] at wellFormed
    obtain ⟨⟨⟨rfl, rfl⟩, rfl⟩, rfl⟩ := wellFormed
    simp [buildP8, p8Body, replyValue, dataBytes_joinBytes]
  next => cases wellFormed

theorem replyWellFormed_iff (r : List Byte) (reg : RegAddr) :
    replyWellFormed r reg = true ↔ ∃ v, r = buildP8 reg v := by
  refine ⟨fun wellFormed => ⟨_, eq_buildP8_of_wellFormed wellFormed⟩, ?_⟩
  rintro ⟨v, rfl⟩
  simp [buildP8, replyWellFormed_p8]

/-! ### The CRC -/

/-- One turn of R82's loop: the polynomial is added where the two bits compared differ. -/
theorem toNat_crcBit (crc cur : Byte) : (crcBit crc cur).toNat = crcTurn crc.toNat cur.toNat := by
  have differ : (crc.getLsbD 7 ^^ cur.getLsbD 0) = true ↔ (crc.toNat / 128 + cur.toNat) % 2 = 1 := by
    have := crc.isLt
    simp [BitVec.getLsbD, Nat.testBit, Nat.shiftRight_eq_div_pow]
    omega
  have shifted : (crc <<< 1).toNat = 2 * crc.toNat % 256 := by simp [Nat.shiftLeft_eq, Nat.mul_comm]
  simp only [crcBit, crcTurn, differ]
  split
  next => rw [BitVec.toNat_xor, shifted]; rfl
  next => exact shifted

/-- The byte shifted right once for each turn done is the byte divided by that power of two. -/
theorem toNat_crcBits (n : Nat) (crc cur : Byte) :
    (crcBits n crc cur).toNat = (List.range n).foldl (fun c k => crcTurn c (cur.toNat / 2 ^ k)) crc.toNat := by
  induction n generalizing crc cur with
  | zero => rfl
  | succ n ih =>
    rw [crcBits, ih, List.range_succ_eq_map, List.foldl_cons, List.foldl_map, toNat_crcBit]
    simp [Nat.shiftRight_eq_div_pow, Nat.div_div_eq_div_mul, Nat.pow_succ, Nat.mul_comm]

theorem crc8_append_singleton (bs : List Byte) (b : Byte) : crc8 (bs ++ [b]) = crcBits 8 (crc8 bs) b := by simp [crc8]

/-- Settles O5: replies by their bytes, the CRC turn by turn, and the written frames by evaluation. -/
theorem wellFormedRepliesAreTheP8Frames : Obligations.WellFormedRepliesAreTheP8Frames := by
  refine ⟨replyWellFormed_iff, fun reg v => replyValue_p8 reg v _, rfl, fun bs b => ?_, ?_⟩
  · rw [crc8_append_singleton, toNat_crcBits]
  · decide +kernel

/-! ### Reading over the line -/

/-- The read transaction of the block's own request, whatever `readsShadow` says: the request on the line, and the word of
the reply window where that is well-formed. -/
theorem readTransaction_buildR4 (s : State) (reg : RegAddr) :
    (readTransaction s (buildR4 s.node reg) reg).ok = replyWellFormed (replyWindow s reg) reg ∧
      (replyWellFormed (replyWindow s reg) reg = true →
        (readTransaction s (buildR4 s.node reg) reg).value = replyValue (replyWindow s reg)) ∧
      (readTransaction s (buildR4 s.node reg) reg).state = afterFrames s [buildR4 s.node reg] :=
  ⟨rfl, fun wellFormed => if_pos wellFormed, transact_eq_afterFrames s _⟩

/-- Behind the echo that such an answer puts first, the window shows the first eight bytes of the reply. -/
theorem replyWindow_of_reply {s : State} {bs : List Byte} {es : List EdgeSrc} {rest : List WireAnswer}
    (next : s.wire = { rx := .reply bs, edges := es } :: rest) (reg : RegAddr) : replyWindow s reg = bs.take 8 := by
  simp [replyWindow, lineAnswer, next, answerBytes, buildR4, r4Body]

theorem exec_r4_own (s : State) (reg : RegAddr) :
    exec (.r4 s.node reg (crc8 (r4Body s.node reg))) s =
      .next (complete (readTransaction s (buildR4 s.node reg) reg).state (.r4 s.node reg (crc8 (r4Body s.node reg)))
        (.word (readTransaction s (buildR4 s.node reg) reg).value)
        (some (readTransaction s (buildR4 s.node reg) reg).ok) none) := by
  simp [exec, execR4, buildR4]

theorem exec_p8 (reg : RegAddr) (v : Word) (crc : Byte) (s : State) :
    exec (.p8 reg v crc) s =
      .next { s with wire := s.wire ++ [{ rx := .reply (p8Body reg v ++ [crc]), edges := [] }] } := rfl

/-- Where the next answer pending is the reply `p8Body` with the byte `crc` behind it, a read of its register over the line
judges that byte and gives the word. -/
theorem exec_rreg_of_p8_pending {s : State} {reg : RegAddr} {v : Word} {crc : Byte} {es : List EdgeSrc}
    {rest : List WireAnswer} (next : s.wire = { rx := .reply (p8Body reg v ++ [crc]), edges := es } :: rest)
    (line : ¬ ShadowRead s reg) :
    ∃ w, (crc = crc8 (p8Body reg v) → w = v) ∧
      exec (.rreg reg.toNat) s =
        .next (complete (afterFrames s [buildR4 s.node reg]) (.rreg reg.toNat) (.word w)
          (some (decide (crc = crc8 (p8Body reg v)))) none) := by
  obtain ⟨-, ok, word, sent⟩ := (memRead_gives s reg).resolve_left fun shadow => line shadow.1
  have window : replyWindow s reg = p8Body reg v ++ [crc] := replyWindow_of_reply next reg
  rw [window, replyWellFormed_p8] at ok
  rw [window, replyValue_p8, ok] at word
  exact ⟨_, fun good => word (decide_eq_true good), by rw [exec_rreg_toNat, ok, sent]⟩

/-- Settles O9: the answer queued by a P8 fills the window of the next read. -/
theorem replyFrameAnswersTheNextRead : Obligations.ReplyFrameAnswersTheNextRead := by
  refine ⟨fun s reg v crc => exec_p8 reg v crc s, fun s reg v crc empty line => ?_⟩
  obtain ⟨w, word, read⟩ := exec_rreg_of_p8_pending
    (s := { s with wire := s.wire ++ [{ rx := .reply (p8Body reg v ++ [crc]), edges := [] }] })
    (congrArg (· ++ _) empty) line
  exact ⟨_, w, exec_p8 reg v crc s, word, read⟩

/-- Settles O8: each frame is the transaction of `MemWrite` or of `MemRead` over the line. -/
theorem lowerInterfaceFramesRunOneTransaction : Obligations.LowerInterfaceFramesRunOneTransaction := by
  refine ⟨fun s reg v => ?_, fun s reg => ?_⟩
  · rw [exec_w8_own rfl, memWrite_eq_afterWrite]
  · obtain ⟨ok, word, sent⟩ := readTransaction_buildR4 s reg
    exact ⟨_, word, by rw [exec_r4_own, ok, sent]⟩

end Sys2Proof.Machine
end

section
/-! SUPPORT. The decoder and the encoder: each kind of operand with the one way its values stand on the command port, each row
of the table of spec/30_encoding.md R95 in both directions, and the frames (O1, O2, O3, O4). -/

namespace Sys2Proof.Machine

/-! ### Operands -/

/-- `read` reads the operands of the kind, and `present` is the one way in which a value stands on the command port. -/
structure ReadsKind {α : Type} (kind : OperandKind) (read : Operand → Option α) (present : α → Operand) : Prop where
  reads : ∀ a x, read a = some x ↔ a = present x
  admits : ∀ a, kind.admits a = (read a).isSome

/-- An integer is the number with denominator 1, and no other presents it. -/
theorem readsKind_integer : ReadsKind .integer Operand.int? intArg where
  reads a v := by
    cases a with
    | num q =>
      simp only [Operand.int?, intArg, Operand.num.injEq, Option.ite_none_right_eq_some, Option.some.injEq]
      refine ⟨?_, ?_⟩
      · rintro ⟨integral, rfl⟩
        exact (Rat.coe_int_num_of_den_eq_one integral).symm
      · rintro rfl
        exact ⟨Rat.den_intCast v, Rat.num_intCast v⟩
    | _ => simp [Operand.int?, intArg]
  admits a := by
    cases a with
    | num q => by_cases integral : q.den = 1 <;> simp [OperandKind.admits, Operand.int?, integral]
    | _ => rfl

theorem readsKind_rational : ReadsKind .rational Operand.rat? .num where
  reads a q := by cases a <;> simp [Operand.rat?]
  admits a := by cases a <;> rfl

theorem readsKind_bool : ReadsKind .bool Operand.bool? .flag where
  reads a b := by cases a <;> simp [Operand.bool?]
  admits a := by cases a <;> rfl

theorem readsKind_fieldSpec : ReadsKind .fieldSpec Operand.field? .field where
  reads a f := by cases a <;> simp [Operand.field?]
  admits a := by cases a <;> rfl

theorem readsKind_source : ReadsKind .source Operand.source? .source where
  reads a e := by cases a <;> simp [Operand.source?]
  admits a := by cases a <;> rfl

/-! ### The rows of the command table -/

/-- A row of R95: `read` reads exactly the operands of the kinds `kinds`, and what they were read of presents the instruction
under the code of the row. -/
structure CommandRow (code : Nat) (kinds : List OperandKind) (read : List Operand → Option Instr) : Prop where
  admits : ∀ args, admitsAll kinds args = (read args).isSome
  presents : ∀ args i, read args = some i → encode i = .command (BitVec.ofNat 8 code) args

section
variable {code : Nat} {α β : Type} {kind₁ kind₂ : OperandKind} {read₁ : Operand → Option α} {read₂ : Operand → Option β}
  {present₁ : α → Operand} {present₂ : β → Operand}

theorem CommandRow.noArgs {op : Instr} (presented : encode op = .command (BitVec.ofNat 8 code) []) :
    CommandRow code [] (noArgs op) where
  admits args := by cases args <;> rfl
  presents args i read := by
    cases args with
    | nil => cases read; exact presented
    | cons => cases read

theorem CommandRow.oneArg {op : α → Instr} (first : ReadsKind kind₁ read₁ present₁)
    (presented : ∀ x, encode (op x) = .command (BitVec.ofNat 8 code) [present₁ x]) :
    CommandRow code [kind₁] (oneArg read₁ op) where
  admits args := by
    match args with
    | [] => rfl
    | [a] => simp [admitsAll, Sys2Proof.oneArg, first.admits]
    | _ :: _ :: _ => simp [admitsAll, Sys2Proof.oneArg]
  presents args i read := by
    match args with
    | [] => cases read
    | [a] =>
      obtain ⟨x, readsX, rfl⟩ := Option.map_eq_some_iff.1 read
      rw [presented, (first.reads a x).1 readsX]
    | _ :: _ :: _ => cases read

theorem CommandRow.twoArgs {op : α → β → Instr} (first : ReadsKind kind₁ read₁ present₁)
    (second : ReadsKind kind₂ read₂ present₂)
    (presented : ∀ x y, encode (op x y) = .command (BitVec.ofNat 8 code) [present₁ x, present₂ y]) :
    CommandRow code [kind₁, kind₂] (twoArgs read₁ read₂ op) where
  admits args := by
    match args with
    | [] => rfl
    | [_] => simp [admitsAll, Sys2Proof.twoArgs]
    | [a, b] =>
      simp only [admitsAll, Sys2Proof.twoArgs, first.admits, second.admits]
      cases read₁ a <;> simp
    | _ :: _ :: _ :: _ => simp [admitsAll, Sys2Proof.twoArgs]
  presents args i read := by
    match args with
    | [] => cases read
    | [_] => cases read
    | [a, b] =>
      obtain ⟨x, readsX, read⟩ := Option.bind_eq_some_iff.1 read
      obtain ⟨y, readsY, rfl⟩ := Option.map_eq_some_iff.1 read
      rw [presented, (first.reads a x).1 readsX, (second.reads b y).1 readsY]
    | _ :: _ :: _ :: _ => cases read

end

/-- The decoder reads the operands of a listed code as its row says; the cases are those of the operand column. -/
theorem commandRow_of_listed {code : Nat} {kinds : List OperandKind} (listed : commandOperands code = some kinds)
    (args : List Operand) : ∃ read, CommandRow code kinds read ∧ decodeCommand code args = orBadOperand (read args) := by
  revert listed
  fun_cases commandOperands code
  all_goals rintro ⟨⟩
  case case1 code_mem => fin_cases code_mem <;> exact ⟨noArgs _, .noArgs rfl, rfl⟩
  case case2 code_mem => fin_cases code_mem <;> exact ⟨oneArg _ _, .oneArg readsKind_integer fun _ => rfl, rfl⟩
  case case3 code_mem => fin_cases code_mem <;> exact ⟨oneArg _ _, .oneArg readsKind_rational fun _ => rfl, rfl⟩
  case case4 code_eq =>
    subst code_eq
    exact ⟨_, .twoArgs readsKind_integer readsKind_integer fun _ _ => rfl, rfl⟩
  case case5 code_eq =>
    subst code_eq
    exact ⟨_, .oneArg readsKind_fieldSpec fun _ => rfl, rfl⟩
  case case6 code_eq =>
    subst code_eq
    exact ⟨_, .twoArgs readsKind_fieldSpec readsKind_integer fun _ _ => rfl, rfl⟩
  case case7 code_eq =>
    rcases code_eq with rfl | rfl <;>
      exact ⟨twoArgs _ _ _, .twoArgs readsKind_integer readsKind_bool fun _ _ => rfl, rfl⟩
  case case8 code_eq =>
    subst code_eq
    exact ⟨_, .twoArgs readsKind_rational readsKind_bool fun _ _ => rfl, rfl⟩
  case case9 code_eq =>
    subst code_eq
    exact ⟨_, .oneArg readsKind_source fun _ => rfl, rfl⟩

/-- The last case of the decoder is all that the operand column leaves out. -/
theorem decodeCommand_of_unlisted {code : Nat} (unlisted : commandOperands code = none) (args : List Operand) :
    decodeCommand code args = .error .badOpcode := by
  fun_cases decodeCommand code args
  case case37 => rfl
  all_goals cases unlisted

theorem orBadOperand_eq_ok {found : Option Instr} {i : Instr} : orBadOperand found = .ok i ↔ found = some i := by
  cases found <;> simp [orBadOperand]

/-! ### Commands -/

/-- A command that decodes is presented by its own code and operands. -/
theorem encode_of_decodeCommand {code : Byte} {args : List Operand} {i : Instr}
    (decoded : decodeCommand code.toNat args = .ok i) : encode i = .command code args := by
  cases listed : commandOperands code.toNat with
  | none => cases (decodeCommand_of_unlisted listed args).symm.trans decoded
  | some kinds =>
    obtain ⟨read, row, runs⟩ := commandRow_of_listed listed args
    have found : read args = some i := orBadOperand_eq_ok.1 (runs.symm.trans decoded)
    rw [row.presents args i found, BitVec.ofNat_toNat, BitVec.setWidth_eq]

theorem decodeCommand_of_listed {code : Nat} {kinds : List OperandKind} (listed : commandOperands code = some kinds)
    (args : List Operand) :
    (admitsAll kinds args = false → decodeCommand code args = .error .badOperand) ∧
      (admitsAll kinds args = true → ∃ i, decodeCommand code args = .ok i) := by
  obtain ⟨read, row, runs⟩ := commandRow_of_listed listed args
  rw [row.admits, runs]
  cases read args <;> simp [orBadOperand]

/-- The codes that R99 reserves are in no row. -/
theorem commandOperands_of_reserved {code : Nat}
    (reserved : code = 0 ∨ (0x05 ≤ code ∧ code ≤ 0x0F) ∨ (0x2C ≤ code ∧ code ≤ 0x2F) ∨
      (0x33 ≤ code ∧ code ≤ 0x3F) ∨ 0x41 ≤ code) : commandOperands code = none := by
  simp only [commandOperands, List.mem_cons, List.not_mem_nil, or_false]
  repeat rw [if_neg (by omega)]

/-! ### Frames -/

theorem decodeFrame_r4 (node : NodeAddr) (reg : RegAddr) (crc : Byte) :
    decodeFrame (r4Body node reg ++ [crc]) = .ok (.r4 node reg crc) := by
  simp [r4Body, decodeFrame]

theorem decodeFrame_w8 (node : NodeAddr) (reg : RegAddr) (v : Word) (crc : Byte) :
    decodeFrame (w8Body node reg v ++ [crc]) = .ok (.w8 node reg v crc) := by
  simp [w8Body, dataBytes, decodeFrame]

/-- The decoder tests for a W8 first, which the RW = 0 of a reply fails. -/
theorem decodeFrame_p8 (reg : RegAddr) (v : Word) (crc : Byte) :
    decodeFrame (p8Body reg v ++ [crc]) = .ok (.p8 reg v crc) := by
  simp [p8Body, dataBytes, decodeFrame]

/-- The fixed bits that the decoder tests are all that the fields of a frame leave out. -/
theorem encode_of_decodeFrame {bytes : List Byte} {i : Instr} (decoded : decodeFrame bytes = .ok i) :
    encode i = .frame bytes := by
  revert decoded
  fun_cases decodeFrame bytes
  case case1 b0 b1 b2 b3 fixed =>
    rintro ⟨⟩
    simp only [Bool.and_eq_true, beq_iff_eq, Bool.not_eq_true'] at fixed
    obtain ⟨⟨rfl, upper⟩, rwBit⟩ := fixed
    simp [encode, r4Body, nodeByte_nodeOfByte upper, readRegByte_regOfByte rwBit]
  case case3 b0 b1 b2 b3 b4 b5 b6 b7 fixed =>
    rintro ⟨⟩
    simp only [Bool.and_eq_true, beq_iff_eq] at fixed
    obtain ⟨⟨rfl, upper⟩, rwBit⟩ := fixed
    simp [encode, w8Body, nodeByte_nodeOfByte upper, writeRegByte_regOfByte rwBit, dataBytes_joinBytes]
  case case4 b0 b1 b2 b3 b4 b5 b6 b7 _ fixed =>
    rintro ⟨⟩
    simp only [Bool.and_eq_true, beq_iff_eq, Bool.not_eq_true'] at fixed
    obtain ⟨⟨rfl, rfl⟩, rwBit⟩ := fixed
    simp [encode, p8Body, readRegByte_regOfByte rwBit, dataBytes_joinBytes]
  all_goals rintro ⟨⟩

theorem decodeFrame_error {bytes : List Byte} {r : RefuseReason} (refused : decodeFrame bytes = .error r) :
    r = .badOpcode := by
  revert refused
  fun_cases decodeFrame bytes <;> rintro ⟨⟩ <;> rfl

/-! ### Both directions -/

/-- Settles O1: the frames by their fields, and a command by reading each operand as it is presented. -/
theorem decodeInvertsEncode : Obligations.DecodeInvertsEncode := by
  have integer (v : Int) : Operand.int? (intArg v) = some v := (readsKind_integer.reads _ v).2 rfl
  intro i
  cases i with
  | w8 node reg v crc => exact decodeFrame_w8 node reg v crc
  | r4 node reg crc => exact decodeFrame_r4 node reg crc
  | p8 reg v crc => exact decodeFrame_p8 reg v crc
  | _ =>
    simp [encode, decode, decodeCommand, noArgs, oneArg, twoArgs, orBadOperand, integer, Operand.rat?, Operand.bool?,
      Operand.field?, Operand.source?]

/-- Settles O2: a command by its row, a frame by its fixed bits. -/
theorem encodeInvertsDecode : Obligations.EncodeInvertsDecode := by
  intro inp i decoded
  cases inp with
  | command code args => exact encode_of_decodeCommand decoded
  | frame bytes => exact encode_of_decodeFrame decoded

/-! ### Refused inputs -/

theorem step_of_fetch_refused {s s' : State} {inp : Input} {reason : RefuseReason} (taken : fetch s = some (inp, s'))
    (refused : decode inp = .error reason) : step s = .next (refuse s' none reason) := by
  simp [step, taken, refused]

/-- Settles O4: the step by the two queues, the reasons by the rows and by the frames. -/
theorem inputsThatAreNoInstructionAreRefused : Obligations.InputsThatAreNoInstructionAreRefused := by
  refine ⟨fun s inp r refused => ⟨fun rest idle port => ?_, fun rest suspended nest => ?_⟩,
    fun code args reserved => decodeCommand_of_unlisted (commandOperands_of_reserved reserved) args,
    fun code args => ⟨fun unlisted => decodeCommand_of_unlisted unlisted args,
      fun kinds listed => decodeCommand_of_listed listed args⟩,
    fun bytes r refused => decodeFrame_error refused⟩
  · exact step_of_fetch_refused (s' := { s with port := rest }) (by simp [fetch, idle, port]) refused
  · obtain ⟨a, below, stack⟩ := List.exists_cons_of_ne_nil suspended
    exact step_of_fetch_refused (s' := { s with nest := rest }) (by simp [fetch, stack, nest]) refused

/-- Settles O3: each word by evaluation. -/
theorem writtenWordsDecode : Obligations.WrittenWordsDecode := by
  unfold Obligations.WrittenWordsDecode
  decide +kernel

end Sys2Proof.Machine
end

section
/-! SUPPORT. WREG and RREG as one transaction each, that a read sees of the answer the reply window alone, the bits of a field,
and the round trip of a field through a register that stores what is written (O6, O7, O10, O18). -/

namespace Sys2Proof.Machine

/-! ### Whole registers -/

/-- Settles O6: the operation is one `memWrite`. -/
theorem wregTransmitsOneWriteFrame : Obligations.WregTransmitsOneWriteFrame := by
  intro s reg v
  rw [exec_wreg_toNat, memWrite_eq_afterWrite]
  rfl

/-- Settles O7: the operation is one `memRead`. -/
theorem rregReturnsWhatOneReadGives : Obligations.RregReturnsWhatOneReadGives :=
  fun s reg => ⟨_, _, _, memRead_gives s reg, exec_rreg_toNat reg s⟩

/-! ### The reply window -/

@[simp] theorem withAnswer_draws (s : State) (rx : WireRx) (es : List EdgeSrc) (rest : List WireAnswer) :
    (withAnswer s rx es rest).draws = s.draws := rfl

theorem replyWindow_withAnswer_bytes (s : State) (rx : List Byte) (es : List EdgeSrc) (rest : List WireAnswer)
    (reg : RegAddr) : replyWindow (withAnswer s (.bytes rx) es rest) reg = (rx.drop 4).take 8 := rfl

theorem memRead_of_line {s : State} {reg : RegAddr} (line : ¬ ShadowRead s reg) :
    memRead s reg =
      { value := if replyWellFormed (replyWindow s reg) reg = true then replyValue (replyWindow s reg)
          else Config.malformedWord s.draws
        ok := replyWellFormed (replyWindow s reg) reg
        state := transact s (buildR4 s.node reg) } :=
  if_neg (mt (readsShadow_iff s reg).1 line)

/-- The word, the `ok` bit and the draw of a malformed word are all taken of the window and the counter. -/
theorem memRead_withAnswer {s : State} {reg : RegAddr} (line : ¬ ShadowRead s reg) {rx₁ rx₂ : WireRx} {es : List EdgeSrc}
    {rest : List WireAnswer}
    (window : replyWindow (withAnswer s rx₁ es rest) reg = replyWindow (withAnswer s rx₂ es rest) reg) :
    memRead (withAnswer s rx₁ es rest) reg = memRead (withAnswer s rx₂ es rest) reg := by
  have line' (rx : WireRx) : ¬ ShadowRead (withAnswer s rx es rest) reg := line
  rw [memRead_of_line (line' rx₁), memRead_of_line (line' rx₂)]
  simp only [window, withAnswer_node, withAnswer_draws, transact_withAnswer s rx₁ rx₂]

/-- Settles O10: the operation is one `memRead`. -/
theorem onlyTheReplyWindowMatters : Obligations.OnlyTheReplyWindowMatters := by
  intro s reg rx₁ rx₂ es rest line window
  have same : memRead (withAnswer s (.bytes rx₁) es rest) reg = memRead (withAnswer s (.bytes rx₂) es rest) reg :=
    memRead_withAnswer line (by simpa only [replyWindow_withAnswer_bytes] using window)
  change exec _ (withAnswer s (.bytes rx₁) es rest) = exec _ (withAnswer s (.bytes rx₂) es rest)
  rw [exec_rreg_toNat, exec_rreg_toNat, same]

/-! ### The bits of a field -/

/-- `Norm` looks at the value modulo two to the width. -/
theorem normField_congr {f : FieldSpec} {u v : Int} (same : u % 2 ^ f.width.toNat = v % 2 ^ f.width.toNat) :
    normField f u = normField f v := by
  simp only [normField, sext, same]

/-- Extraction is `Norm` of the word shifted down to the field. -/
theorem extractField_eq_normField (f : FieldSpec) (w : Word) :
    extractField f w = normField f (w.toNat >>> f.offset.toNat : Nat) := by
  simp [extractField, normField, sext]

theorem getLsbD_fieldMask (f : FieldSpec) (k : Nat) :
    (fieldMask f).getLsbD k =
      (decide (k < 32) && decide (f.offset.toNat ≤ k) && decide (k - f.offset.toNat < f.width.toNat)) := by
  simp [fieldMask, BitVec.getLsbD_ofNat, Nat.testBit_shiftLeft, Nat.testBit_two_pow_sub_one, Bool.and_assoc]

theorem getLsbD_fieldBits (f : FieldSpec) (v : Int) (k : Nat) :
    (fieldBits f v).getLsbD k =
      (decide (k < 32) && decide (f.offset.toNat ≤ k) &&
        (v % 2 ^ f.width.toNat).toNat.testBit (k - f.offset.toNat)) := by
  simp [fieldBits, BitVec.getLsbD_ofNat, Nat.testBit_shiftLeft, Bool.and_assoc]

/-- What stands above the offset in the word written is, modulo two to the width, the value. -/
theorem insertField_shiftRight {f : FieldSpec} (wellFormed : fieldSpecOk f = true) (w : Word) (v : Int) :
    (((insertField f w v).toNat >>> f.offset.toNat : Nat) : Int) % 2 ^ f.width.toNat = v % 2 ^ f.width.toNat := by
  have inside : f.offset.toNat + f.width.toNat ≤ 32 := by
    simp only [fieldSpecOk, decide_eq_true_eq] at wellFormed
    omega
  have nonneg : 0 ≤ v % 2 ^ f.width.toNat := Int.emod_nonneg _ (by positivity)
  have small : (v % 2 ^ f.width.toNat).toNat < 2 ^ f.width.toNat :=
    (Int.toNat_lt nonneg).2 (by exact_mod_cast Int.emod_lt_of_pos v (by positivity))
  have bits : ((insertField f w v).toNat >>> f.offset.toNat) % 2 ^ f.width.toNat = (v % 2 ^ f.width.toNat).toNat := by
    rw [← Nat.mod_eq_of_lt small]
    refine Nat.eq_of_testBit_eq fun i => ?_
    simp only [Nat.testBit_mod_two_pow, Nat.testBit_shiftRight, BitVec.testBit_toNat, insertField, BitVec.getLsbD_or,
      BitVec.getLsbD_and, BitVec.getLsbD_not, getLsbD_fieldMask, getLsbD_fieldBits, Nat.add_sub_cancel_left]
    by_cases inField : i < f.width.toNat
    · have inWord : f.offset.toNat + i < 32 := by omega
      simp [inField, inWord]
    · simp [inField]
  rw [← Int.toNat_of_nonneg nonneg, ← bits]
  push_cast
  rfl

/-- What is inserted is extracted as `Norm`. -/
theorem extractField_insertField {f : FieldSpec} (wellFormed : fieldSpecOk f = true) (w : Word) (v : Int) :
    extractField f (insertField f w v) = normField f v :=
  (extractField_eq_normField f _).trans (normField_congr (insertField_shiftRight wellFormed w v))

/-- A field that covers its register is extracted of the word of the value. -/
theorem extractField_toWord {f : FieldSpec} (covers : coversRegister f = true) (v : Int) :
    extractField f (toWord v) = normField f v := by
  obtain ⟨offset, width⟩ : f.offset = 0 ∧ f.width = 32 := by simpa [coversRegister] using covers
  rw [extractField_eq_normField]
  refine normField_congr ?_
  have word : ((toWord v).toNat : Int) = v % 2 ^ 32 := by
    rw [toWord, BitVec.toNat_ofInt]
    exact Int.toNat_of_nonneg (Int.emod_nonneg v (by decide))
  simp [offset, width, word]

/-! ### Storing registers -/

/-- The chip's reply to a read over the line gives its word. -/
theorem memRead_of_healthyReply {s : State} {reg : RegAddr} {w : Word} {rest : List WireAnswer}
    (line : ¬ ShadowRead s reg) (next : s.wire = healthyReply reg w :: rest) :
    memRead s reg = { value := w, ok := true, state := transact s (buildR4 s.node reg) } := by
  have window : replyWindow s reg = buildP8 reg w := replyWindow_of_reply next reg
  rw [memRead_of_line line, window]
  simp [buildP8, replyWellFormed_p8]

/-- A register whose reads are served from the shadow gives the word last written. -/
theorem memRead_of_stored {s t : State} {reg : RegAddr} {w : Word} (shadow : ShadowRead s reg)
    (params : t.params = s.params) (stored : t.shadow = (memWrite s reg w).shadow) :
    memRead t reg = { value := w, ok := true, state := t } := by
  have shadow' : ShadowRead t reg := by rwa [ShadowRead, params]
  rw [memRead_of_shadowRead shadow']
  simp [stored, memWrite, shadow.1]

/-! ### The field operations -/

theorem writeField_of_memRead {s r : State} {f : FieldSpec} {w : Word} {ok : Bool} (part : coversRegister f = false)
    (read : memRead s (fieldAddr f) = { value := w, ok := ok, state := r }) (v : Int) :
    writeField s f v = { value := (), ok := ok, state := memWrite r (fieldAddr f) (insertField f w v) } := by
  simp [writeField, part, read]

/-- Where reads are served from the shadow, the write of a field is one write of a word that holds the value. -/
theorem writeField_of_shadowRead {s : State} {f : FieldSpec} (wellFormed : fieldSpecOk f = true)
    (shadow : ShadowRead s (fieldAddr f)) (v : Int) :
    ∃ w, extractField f w = normField f v ∧
      writeField s f v = { value := (), ok := true, state := memWrite s (fieldAddr f) w } := by
  cases covers : coversRegister f with
  | true => exact ⟨_, extractField_toWord covers v, writeField_of_covers covers s v⟩
  | false =>
    exact ⟨_, extractField_insertField wellFormed _ v, writeField_of_memRead covers (memRead_of_shadowRead shadow) v⟩

/-- The state after WFLD of a well-formed literal FieldSpec. -/
def afterWfld (s : State) (f : FieldSpec) (v : Int) : State :=
  complete (writeField s f v).state (.wfld (.literal f) v) .none (some (writeField s f v).ok) none

/-- The state after RFLD of a well-formed literal FieldSpec. -/
def afterRfld (s : State) (f : FieldSpec) : State :=
  complete (readField s f).state (.rfld (.literal f)) (.int (readField s f).value) (some (readField s f).ok) none

theorem exec_wfld_literal {f : FieldSpec} (wellFormed : fieldSpecOk f = true) (s : State) (v : Int) :
    exec (.wfld (.literal f) v) s = .next (afterWfld s f v) := by
  simp [exec, execWfld, resolveField, wellFormed, afterWfld]

theorem exec_rfld_literal {f : FieldSpec} (wellFormed : fieldSpecOk f = true) (s : State) :
    exec (.rfld (.literal f)) s = .next (afterRfld s f) := by
  simp [exec, execRfld, resolveField, wellFormed, afterRfld]

/-- What WFLD of `v` and RFLD of the same field report where the value comes back. -/
def roundTripLog (f : FieldSpec) (v : Int) : List LogEntry :=
  [{ op := some (.wfld (.literal f) v), result := .completed .none (some true) none },
   { op := some (.rfld (.literal f)), result := .completed (.int (normField f v)) (some true) none }]

/-- Where the write of the field ended in `t`, and the word `w` that the next read gives holds the value, WFLD and RFLD
complete with `Norm` of the value, and RFLD transmits what that read does. -/
theorem afterRfld_afterWfld {s t u : State} {f : FieldSpec} {v : Int} {w : Word}
    (wrote : writeField s f v = { value := (), ok := true, state := t }) (kept : t.results = s.results)
    (holds : extractField f w = normField f v)
    (read : memRead (afterWfld s f v) (fieldAddr f) = { value := w, ok := true, state := u }) :
    (afterRfld (afterWfld s f v) f).results = s.results ++ roundTripLog f v ∧
      (afterRfld (afterWfld s f v) f).txLog = u.txLog := by
  have readKeeps : u.results = (afterWfld s f v).results := by
    simpa only [read] using (memRead_reads (afterWfld s f v) (fieldAddr f)).same.results
  have written : (afterWfld s f v).results =
      s.results ++ [{ op := some (.wfld (.literal f) v), result := .completed .none (some true) none }] := by
    simp [afterWfld, wrote, kept]
  simp [afterRfld, readField, read, readKeeps, written, holds, roundTripLog]

/-- Over the line, the write of the word `w` in the state `r` and the chip's answer to the read after it. -/
theorem afterRfld_afterWfld_of_line {s r : State} {f : FieldSpec} {v : Int} {w : Word} {a : WireAnswer}
    {rest : List WireAnswer}
    (wrote : writeField s f v = { value := (), ok := true, state := memWrite r (fieldAddr f) w })
    (kept : r.results = s.results) (holds : extractField f w = normField f v) (line : ¬ ShadowRead r (fieldAddr f))
    (wire : r.wire = a :: healthyReply (fieldAddr f) w :: rest) :
    (afterRfld (afterWfld s f v) f).results = s.results ++ roundTripLog f v ∧
      (afterRfld (afterWfld s f v) f).txLog =
        r.txLog ++ [buildW8 r.node (fieldAddr f) w, buildR4 r.node (fieldAddr f)] := by
  have line' : ¬ ShadowRead (afterWfld s f v) (fieldAddr f) := by
    simpa [ShadowRead, afterWfld, wrote, memWrite] using line
  have next : (afterWfld s f v).wire = healthyReply (fieldAddr f) w :: rest := by
    simp [afterWfld, wrote, memWrite, wire]
  obtain ⟨results, txLog⟩ :=
    afterRfld_afterWfld wrote (by simp [memWrite, kept]) holds (memRead_of_healthyReply line' next)
  exact ⟨results, txLog.trans (by simp [afterWfld, wrote, memWrite])⟩

/-- Settles O18: in each form the word written holds the value, and the read after it gives that word, by the chip's reply or
from the shadow. -/
theorem storingChipRoundTrip : Obligations.StoringChipRoundTrip := by
  intro s f v wellFormed
  refine ⟨_, _, exec_wfld_literal wellFormed s v, exec_rfld_literal wellFormed _, ?partly, ?covering, ?shadow⟩
  case partly =>
    intro w a rest line part wire
    have read := memRead_of_healthyReply line wire
    obtain ⟨results, txLog⟩ := afterRfld_afterWfld_of_line (writeField_of_memRead part read v) rfl
      (extractField_insertField wellFormed w v) line (congrArg List.tail wire)
    exact ⟨results, by simpa using txLog⟩
  case covering =>
    intro a rest line covers wire
    exact afterRfld_afterWfld_of_line (writeField_of_covers covers s v) rfl (extractField_toWord covers v) line wire
  case shadow =>
    intro shadow
    obtain ⟨w, holds, wrote⟩ := writeField_of_shadowRead wellFormed shadow v
    have read : memRead (afterWfld s f v) (fieldAddr f) = { value := w, ok := true, state := afterWfld s f v } :=
      memRead_of_stored shadow (by simp [afterWfld, wrote, memWrite]) (by simp [afterWfld, wrote])
    obtain ⟨results, txLog⟩ := afterRfld_afterWfld wrote (by simp [memWrite]) holds read
    exact ⟨results, w, txLog.trans (by simp [afterWfld, wrote, memWrite])⟩

end Sys2Proof.Machine
end

section
/-! SUPPORT. The field codec on a word, and the conversion between milliseconds and raw units (O13, O14, O15, O24). -/

namespace Sys2Proof.Machine

/-! ### Extraction -/

/-- The field's bits as an unsigned number, for any width (spec/41_field_codec.md R142). -/
theorem extractField_of_unsigned {f : FieldSpec} (unsigned : f.signed = false) (w : Word) :
    extractField f w = (w.extractLsb' f.offset.toNat f.width.toNat).toNat := by
  simp [extractField, unsigned, BitVec.extractLsb'_toNat]

/-- `sext_n` of the number that a vector of `n` bits stands for is its two's complement reading. -/
theorem sext_toNat {n : Nat} (x : BitVec n) : sext n x.toNat = x.toInt := by
  have reduced : (x.toNat : Int) % 2 ^ n = x.toNat := Int.emod_eq_of_lt (by positivity) (by exact_mod_cast x.isLt)
  have bound : 2 * (x.toNat : Int) < 2 ^ n ↔ 2 * x.toNat < 2 ^ n := by norm_cast
  simp [sext, reduced, bound, BitVec.toInt]

theorem extractField_of_signed {f : FieldSpec} (signed : f.signed = true) (w : Word) :
    extractField f w = (w.extractLsb' f.offset.toNat f.width.toNat).toInt := by
  rw [← sext_toNat, BitVec.extractLsb'_toNat]
  simp [extractField, signed]

/-- Settles O13: the ranges are those of a vector of the field's bits. -/
theorem extractReadsTheFieldsBits : Obligations.ExtractReadsTheFieldsBits := by
  intro f w _
  refine ⟨fun unsigned => ?_, fun signed => ?_⟩
  · rw [extractField_of_unsigned unsigned]
    exact ⟨rfl, by positivity, by exact_mod_cast BitVec.isLt _⟩
  · rw [extractField_of_signed signed]
    exact ⟨rfl, BitVec.le_toInt _, BitVec.toInt_lt⟩

/-! ### Insertion -/

/-- The reduced value has no bit above the field. -/
theorem testBit_emod_two_pow_of_le (v : Int) {n i : Nat} (above : n ≤ i) : (v % 2 ^ n).toNat.testBit i = false := by
  have small : (v % 2 ^ n).toNat < 2 ^ n :=
    (Int.toNat_lt (Int.emod_nonneg v (by positivity))).2 (by exact_mod_cast Int.emod_lt_of_pos v (by positivity))
  exact Nat.testBit_lt_two_pow (small.trans_le (Nat.pow_le_pow_right (by decide) above))

theorem getLsbD_insertField (f : FieldSpec) (w : Word) (v : Int) {k : Nat} (inWord : k < 32) :
    (insertField f w v).getLsbD k =
      if f.offset.toNat ≤ k ∧ k < f.offset.toNat + f.width.toNat
      then (v % 2 ^ f.width.toNat).toNat.testBit (k - f.offset.toNat) else w.getLsbD k := by
  simp only [insertField, BitVec.getLsbD_or, BitVec.getLsbD_and, BitVec.getLsbD_not, getLsbD_fieldMask,
    getLsbD_fieldBits, inWord, decide_true, Bool.true_and]
  by_cases low : f.offset.toNat ≤ k
  · by_cases high : k < f.offset.toNat + f.width.toNat
    · have inField : k - f.offset.toNat < f.width.toNat := by omega
      simp [low, high, inField]
    · have above : f.width.toNat ≤ k - f.offset.toNat := by omega
      simp only [low, high, above.not_gt, testBit_emod_two_pow_of_le v above]
      simp
  · simp [low]

/-- Settles O14, by the bits of the mask and of the reduced value. -/
theorem insertReplacesOnlyTheFieldsBits : Obligations.InsertReplacesOnlyTheFieldsBits :=
  fun f w v _ _ inWord => getLsbD_insertField f w v inWord

/-- Settles O15: extraction is `Norm` of the word written shifted down, which is the value modulo two to the width. -/
theorem extractAfterInsertIsNorm : Obligations.ExtractAfterInsertIsNorm :=
  fun _ w v wellFormed => extractField_insertField wellFormed w v

/-! ### Milliseconds -/

/-- The time of one raw unit in milliseconds (spec/41_field_codec.md R156). -/
def unitMs (s : State) : Rat := s.params.tclkDiv * 1000 / s.fosc

/-- The exact number of raw units in a time (spec/41_field_codec.md R155). -/
def rawUnits (s : State) (ms : Rat) : Rat := ms / 1000 * s.fosc / s.params.tclkDiv

theorem rawToMs_eq_mul_unitMs (s : State) (raw : Int) : rawToMs s raw = raw * unitMs s := by
  rw [rawToMs, unitMs]
  ring

theorem msToRaw_of_trunc {s : State} (trunc : s.params.msRounding = .trunc) (ms : Rat) :
    msToRaw s ms = ⌊rawUnits s ms⌋ := by
  rw [msToRaw, trunc]
  rfl

theorem msToRaw_of_nearest {s : State} (nearest : s.params.msRounding = .nearest) (ms : Rat) :
    msToRaw s ms = roundHalfAway (rawUnits s ms) := by
  rw [msToRaw, nearest]
  rfl

theorem roundHalfAway_of_nonneg {x : Rat} (nonneg : 0 ≤ x) : roundHalfAway x = ⌊x + 1 / 2⌋ := if_pos nonneg

section
variable {s : State} (fosc : 0 < s.fosc) (tclkDiv : 0 < s.params.tclkDiv)
include fosc tclkDiv

theorem unitMs_pos : 0 < unitMs s := by
  have : (0 : Rat) < s.params.tclkDiv := by exact_mod_cast tclkDiv
  unfold unitMs
  positivity

theorem rawUnits_nonneg {ms : Rat} (nonneg : 0 ≤ ms) : 0 ≤ rawUnits s ms := by
  have : (0 : Rat) < s.params.tclkDiv := by exact_mod_cast tclkDiv
  unfold rawUnits
  positivity

theorem rawUnits_mul_unitMs (ms : Rat) : rawUnits s ms * unitMs s = ms := by
  have : (s.params.tclkDiv : Rat) ≠ 0 := by exact_mod_cast tclkDiv.ne'
  have := fosc.ne'
  rw [rawUnits, unitMs]
  field_simp

/-- What a round trip gets wrong is what the rounding of the number of units gets wrong, in units. -/
theorem rawToMs_sub (raw : Int) (ms : Rat) : rawToMs s raw - ms = (raw - rawUnits s ms) * unitMs s := by
  rw [rawToMs_eq_mul_unitMs, sub_mul, rawUnits_mul_unitMs fosc tclkDiv]

end

/-- Rounding to nearest is off by at most a half, and above the number where it is off by exactly a half. -/
theorem roundHalfAway_error {x : Rat} (nonneg : 0 ≤ x) :
    |(roundHalfAway x : Rat) - x| ≤ 1 / 2 ∧ (|(roundHalfAway x : Rat) - x| = 1 / 2 → x < roundHalfAway x) := by
  rw [roundHalfAway_of_nonneg nonneg]
  have below := Int.floor_le (x + 1 / 2)
  have above := Int.lt_floor_add_one (x + 1 / 2)
  refine ⟨abs_le.2 ⟨by linarith, by linarith⟩, fun tie => ?_⟩
  rcases eq_or_eq_neg_of_abs_eq tie with up | down <;> linarith

/-- Settles O24: the error in units, times the unit. -/
theorem millisecondRoundTrip : Obligations.MillisecondRoundTrip := by
  intro s ms nonneg fosc tclkDiv
  have unit := unitMs_pos fosc tclkDiv
  have error := rawToMs_sub fosc tclkDiv (msToRaw s ms) ms
  change (_ → _ ∧ ms < _ + unitMs s) ∧ (_ → _ ≤ unitMs s / 2 ∧ (_ = unitMs s / 2 → _))
  refine ⟨fun trunc => ?_, fun nearest => ?_⟩
  · rw [msToRaw_of_trunc trunc] at error ⊢
    have below := Int.floor_le (rawUnits s ms)
    have above := Int.lt_floor_add_one (rawUnits s ms)
    constructor <;> nlinarith
  · rw [msToRaw_of_nearest nearest] at error ⊢
    obtain ⟨near, tie⟩ := roundHalfAway_error (rawUnits_nonneg fosc tclkDiv nonneg)
    rw [error, abs_mul, abs_of_pos unit]
    refine ⟨by nlinarith, fun half => ?_⟩
    have up := tie (mul_right_cancel₀ unit.ne' (half.trans (by ring)))
    nlinarith

end Sys2Proof.Machine
end

section
/-! SUPPORT. RFLD and WFLD, the chip's configuration operations and the local ones: each as one read or one write of its
field or register, completed (O16, O17, O19, O20, O21, O22, O23, O25, O26, O27, O28). -/

namespace Sys2Proof.Machine

/-! ### The shapes of the meanings -/

section
variable {i op : Instr} {s : State}

/-- An instruction that runs `getNamed` makes one read of the field and completes with what it extracts. -/
theorem exec_gives_of_getNamed {n : FieldName} {value : Int → Value}
    (runs : exec i s = .next (getNamed op n value s)) :
    ∃ w ok t, ReadGives s (fieldAddr (field s n)) w ok t ∧
      exec i s = .next (complete t op (value (extractField (field s n) w)) (some ok) none) :=
  ⟨_, _, _, memRead_gives s _, runs⟩

theorem exec_gives_of_getRegister {reg : RegAddr} (runs : exec i s = .next (getRegister op reg s)) :
    ∃ w ok t, ReadGives s reg w ok t ∧ exec i s = .next (complete t op (.word w) (some ok) none) :=
  ⟨_, _, _, memRead_gives s reg, runs⟩

/-- An instruction that runs `setNamed` makes one write of the field and completes with the warning. -/
theorem exec_gives_of_setNamed {n : FieldName} {v : Int} {warning : Option Warning}
    (runs : exec i s = .next (setNamed op n v warning s)) :
    ∃ ok t, FieldWriteGives s (field s n) v ok t ∧ exec i s = .next (complete t op .none (some ok) warning) :=
  ⟨_, _, writeField_gives s _ v, runs⟩

end

/-! ### RFLD and WFLD -/

section
variable {s : State} {f : FieldRef} (wellFormed : fieldSpecOk (resolveField s.params.fieldTable f) = true)
include wellFormed

theorem exec_rfld_of_wellFormed :
    exec (.rfld f) s =
      .next (complete (readField s (resolveField s.params.fieldTable f)).state (.rfld f)
        (.int (readField s (resolveField s.params.fieldTable f)).value)
        (some (readField s (resolveField s.params.fieldTable f)).ok) none) :=
  congrArg Host.Outcome.next (if_pos wellFormed)

theorem exec_wfld_of_wellFormed (v : Int) :
    exec (.wfld f v) s =
      .next (complete (writeField s (resolveField s.params.fieldTable f) v).state (.wfld f v) .none
        (some (writeField s (resolveField s.params.fieldTable f) v).ok) none) :=
  congrArg Host.Outcome.next (if_pos wellFormed)

end

/-- Settles O16: the operation is one `readField`. -/
theorem rfldReturnsTheFieldRead : Obligations.RfldReturnsTheFieldRead :=
  fun s _ wellFormed => ⟨_, _, _, memRead_gives s _, exec_rfld_of_wellFormed wellFormed⟩

/-- Settles O17: the operation is one `writeField`. -/
theorem wfldWritesTheFieldByReadModifyWrite : Obligations.WfldWritesTheFieldByReadModifyWrite :=
  fun s _ v wellFormed => ⟨_, _, writeField_gives s _ v, exec_wfld_of_wellFormed wellFormed v⟩

/-! ### Microstep resolution -/

/-- The code of a power of two in MSTEPS (spec/41_field_codec.md R149). -/
theorem mstepEncode_two_pow {k : Nat} (le : k ≤ 8) : mstepEncode (2 ^ k) = some (8 - (k : Int)) := by
  interval_cases k <;> rfl

theorem mem_mstepCodes : ∀ p ∈ mstepCodes, ∃ k, k < 9 ∧ p.1 = 2 ^ k := by decide

/-- MSTEPS has no other members than these powers of two. -/
theorem mstepEncode_eq_none {n : Int} (noPower : ∀ k : Nat, k ≤ 8 → n ≠ 2 ^ k) : mstepEncode n = none := by
  refine List.lookup_eq_none_iff.2 fun p mem => ?_
  obtain ⟨k, lt, power⟩ := mem_mstepCodes p mem
  simpa [power] using noPower k (by omega)

/-- `256 >> k` is the power of two that the code `k` stands for (spec/41_field_codec.md R151). -/
theorem mstepDecode_natCast {k : Nat} (le : k ≤ 8) : mstepDecode k = some (2 ^ (8 - k)) := by
  interval_cases k <;> rfl

theorem exec_setMstep_of_some {n code : Int} (encoded : mstepEncode n = some code) (s : State) :
    exec (.setMstep n) s = .next (setNamed (.setMstep n) .mres code none s) := by
  simp [exec, execSetMstep, encoded]

theorem exec_setMstep_of_none {n : Int} (ignored : mstepEncode n = none) (s : State) :
    exec (.setMstep n) s = .next (complete s (.setMstep n) .none (some true) none) := by
  simp [exec, execSetMstep, ignored]

/-- Settles O19: the requests are those that `mstepEncode` encodes, and the others. -/
theorem setMstepWritesItsCodeOrNothing : Obligations.SetMstepWritesItsCodeOrNothing :=
  fun s => ⟨fun _ le => exec_gives_of_setNamed (exec_setMstep_of_some (mstepEncode_two_pow le) s),
    fun _ noPower => exec_setMstep_of_none (mstepEncode_eq_none noPower) s⟩

/-- Settles O20: of a code without a resolution the integer is the draw. -/
theorem getMstepReturnsTheResolution : Obligations.GetMstepReturnsTheResolution := by
  intro s
  refine ⟨_, _, _, _, _, memRead_gives s _, fun k le code => ?_, rfl⟩
  rw [readNamed, readField, code, mstepDecode_natCast le, Option.getD_some]

/-! ### Delay factors -/

section
variable {s : State}

theorem exec_setIholddelay_of_nonneg {raw : Int} (nonneg : 0 ≤ raw) :
    exec (.setIholddelay raw) s = .next (setHoldDelay (.setIholddelay raw) raw s) :=
  congrArg Host.Outcome.next (if_neg nonneg.not_gt)

theorem exec_setIholddelayMs_of_nonneg {ms : Rat} (nonneg : 0 ≤ ms) :
    exec (.setIholddelayMs ms) s = .next (setHoldDelay (.setIholddelayMs ms) (msToRaw s ms) s) :=
  congrArg Host.Outcome.next (if_neg nonneg.not_gt)

theorem exec_setTpowerdown_of_nonneg {raw : Int} (nonneg : 0 ≤ raw) :
    exec (.setTpowerdown raw) s = .next (setPowerDown (.setTpowerdown raw) raw s) :=
  congrArg Host.Outcome.next (if_neg nonneg.not_gt)

theorem exec_setTpowerdownMs_of_nonneg {ms : Rat} (nonneg : 0 ≤ ms) :
    exec (.setTpowerdownMs ms) s = .next (setPowerDown (.setTpowerdownMs ms) (msToRaw s ms) s) :=
  congrArg Host.Outcome.next (if_neg nonneg.not_gt)

theorem exec_setTcoolthrs_of_nonneg {v : Int} (nonneg : 0 ≤ v) :
    exec (.setTcoolthrs v) s = .next (setNamed (.setTcoolthrs v) .tcoolthrs v none s) :=
  congrArg Host.Outcome.next (if_neg nonneg.not_gt)

end

/-- Settles O21: both setters run `setHoldDelay`, which clamps with `min` and `warnHold`. -/
theorem holdDelaySettersClampAt15 : Obligations.HoldDelaySettersClampAt15 :=
  fun _ => ⟨fun _ nonneg => exec_gives_of_setNamed (exec_setIholddelay_of_nonneg nonneg),
    fun _ nonneg => exec_gives_of_setNamed (exec_setIholddelayMs_of_nonneg nonneg)⟩

/-- Settles O22: both setters run `setPowerDown`, which clamps with `min` and `warnPower`. -/
theorem powerDownSettersClampAt255 : Obligations.PowerDownSettersClampAt255 :=
  fun _ => ⟨fun _ nonneg => exec_gives_of_setNamed (exec_setTpowerdown_of_nonneg nonneg),
    fun _ nonneg => exec_gives_of_setNamed (exec_setTpowerdownMs_of_nonneg nonneg)⟩

/-- Settles O23: each getter runs `getNamed`; the time is `rawToMs` of the factor. -/
theorem delayGettersReturnTheFactor : Obligations.DelayGettersReturnTheFactor :=
  fun s => ⟨exec_gives_of_getNamed rfl, exec_gives_of_getNamed (value := fun raw => .rat (rawToMs s raw)) rfl,
    exec_gives_of_getNamed rfl, exec_gives_of_getNamed (value := fun raw => .rat (rawToMs s raw)) rfl⟩

/-! ### Stall detection, speed bound and version -/

/-- Settles O25: SGTHRS and SG_RESULT are reached by `memWrite` and `memRead` of the whole register. -/
theorem stallRegistersAreReachedWhole : Obligations.StallRegistersAreReachedWhole := by
  refine fun s => ⟨fun v low high => ?_, exec_gives_of_getRegister rfl, exec_gives_of_getRegister rfl⟩
  rw [exec_setSgthrs_of_u8 low high, memWrite_eq_afterWrite]
  rfl

/-- Settles O26: the setter runs `setNamed` with its own value, the getters run `getNamed`. -/
theorem speedBoundAndVersionFields : Obligations.SpeedBoundAndVersionFields :=
  fun _ => ⟨fun _ nonneg => exec_gives_of_setNamed (exec_setTcoolthrs_of_nonneg nonneg), exec_gives_of_getNamed rfl,
    exec_gives_of_getNamed rfl⟩

/-! ### Local configuration -/

theorem isU2_toNat (a : NodeAddr) : isU2 (a.toNat : Int) = true := by
  have := a.isLt
  simp only [isU2, fitsUnsigned, decide_eq_true_eq]
  omega

@[simp] theorem toNode_toNat (a : NodeAddr) : toNode (a.toNat : Int) = a := by simp [toNode]

/-- Settles O27: each domain is the negation of its refusal's test; SET_NODEADDR by the phase. -/
theorem localSettersStoreTheirValue : Obligations.LocalSettersStoreTheirValue := by
  refine fun s => ⟨fun f pos => ?_, fun r b pos => ?_, fun f low high => ?_, fun a config => ?_⟩
  · exact congrArg Host.Outcome.next (if_neg pos.not_ge)
  · exact congrArg Host.Outcome.next (if_neg pos.not_ge)
  · exact congrArg Host.Outcome.next (if_neg (not_or.2 ⟨low.not_gt, high.not_gt⟩))
  · simp [exec, execSetNodeaddr, isU2_toNat, config]

/-- Settles O28: each getter's arm of the dispatch. -/
theorem localGettersReportTheirField : Obligations.LocalGettersReportTheirField :=
  fun _ => ⟨rfl, rfl, rfl, rfl⟩

end Sys2Proof.Machine
end

section
/-! SUPPORT. CHECK as one handler step, and a suspended CHECK or POLL going on behind its listener (O39, O40, O41, O42, O49). -/

namespace Sys2Proof.Machine

/-! ### The handler step -/

section
variable {ctx : EmitterCtx} {h : Handler} {v : Bool} {rest : List Handler} {k : State → State} {s : State}

/-- Without an active listener, or without an event, a handler step ends at once. -/
theorem handlerStep_ends {pending : List Event} (ends : pending = [] ∨ s.nest = []) :
    handlerStep ctx h v pending rest k s = k (setPrev (afterEvents s pending) h v) := by
  rcases handlerStep_cases ctx h v pending rest k s with ⟨-, runs⟩ | ⟨e, left, some, active, -⟩
  · exact runs
  · rcases ends with none | quiet
    · cases none.symm.trans some
    · exact absurd quiet active

/-- With an active listener a handler step is suspended after its next event. -/
theorem handlerStep_waits (active : s.nest ≠ []) (e : Event) (left : List Event) :
    handlerStep ctx h v (e :: left) rest k s =
      suspend (emit s e) { ctx := ctx, handler := h, input := v, pending := left, rest := rest } := by
  simp [handlerStep, emitAll_of_listener e left s active]

end

/-! ### CHECK and EDGE -/

theorem handlerOfId_handlerId (h : Handler) : handlerOfId (handlerId h) = some h := by cases h <;> rfl

/-- What a CHECK that makes the events `es` carries through its step (spec/42_edge_detector.md R194). -/
def checkCtx (h : Handler) (v : Bool) (es : List Event) : EmitterCtx :=
  { emitter := .check (handlerId h) v, ok := true, snapshot := none, events := es }

theorem exec_check (h : Handler) (v : Bool) (s : State) :
    exec (.check (handlerId h) v) s =
      .next (handlerStep (checkCtx h v (changeOn s h v)) h v (changeOn s h v) []
        (finishEmitter (checkCtx h v (changeOn s h v))) s) := by
  simp [exec, execCheck, handlerOfId_handlerId, stepEvents_eq_changeOn, checkCtx]

theorem changeOn_of_ne {s : State} {h : Handler} {v : Bool} (change : v ≠ s.prev.get h) :
    changeOn s h v = changeEvents h v := if_neg change

/-- A change whose list is empty emits as little as no change. -/
theorem changeOn_eq_nil {s : State} {h : Handler} {v : Bool} (silent : v = s.prev.get h ∨ changeEvents h v = []) :
    changeOn s h v = [] := by
  unfold changeOn
  split
  next => rfl
  next change => exact silent.resolve_left change

/-- A CHECK that no listener interrupts makes the whole step of its handler and reports its events. -/
theorem exec_check_ends {s : State} {h : Handler} {v : Bool} (ends : changeOn s h v = [] ∨ s.nest = []) :
    exec (.check (handlerId h) v) s =
      .next (complete (afterStep s h v) (.check (handlerId h) v) (.events (changeOn s h v)) none none) := by
  rw [exec_check, handlerStep_ends ends]
  rfl

/-- Settles O39: a step with no event or no listener is not interrupted. -/
theorem checkRunsOneHandlerStep : Obligations.CheckRunsOneHandlerStep := by
  intro s h v quiet
  have ends : changeOn s h v = [] ∨ s.nest = [] := by
    rcases quiet with quiet | silent
    · exact .inr quiet
    · exact .inl (changeOn_eq_nil silent)
  exact exec_check_ends ends

/-- Settles O49: EDGE stores true, whatever the flag holds. -/
theorem edgesCoalesceInTheirFlag : Obligations.EdgesCoalesceInTheirFlag := by
  refine fun s => ⟨rfl, rfl, fun src t next => ?_⟩
  cases next
  cases src <;> rfl

/-- Settles O42, by induction on the inputs: each CHECK leaves its input in the cell for the next to compare with. -/
theorem handlerFiresOncePerTransition : Obligations.HandlerFiresOncePerTransition := by
  intro h vs
  induction vs with
  | nil => exact fun s _ => ⟨s, rfl, by simp, rfl⟩
  | cons v vs ih =>
    intro s quiet
    have first := exec_check_ends (h := h) (v := v) (.inr quiet)
    generalize after : complete (afterStep s h v) (.check (handlerId h) v) (.events (changeOn s h v)) none none = u at first
    have cell : u.prev.get h = v := by simp [← after, afterStep]
    have emitted : u.events = s.events ++ changeOn s h v := by simp [← after, afterStep]
    obtain ⟨t, run, events, last⟩ := ih u (by simpa [← after, afterStep] using quiet)
    rw [cell] at events
    simp only [cell] at last
    refine ⟨t, by simpa [first] using run, ?_, by simpa using last⟩
    rw [events, emitted]
    simp [changeOn, eq_comm]

/-! ### Suspension -/

/-- Settles O40: CHECK is suspended in its one step, and the run of a POLL by `runHandlers_goes_on`. -/
theorem emissionWaitsForItsListeners : Obligations.EmissionWaitsForItsListeners := by
  refine ⟨fun s h v e left active change events => ?_, fun s active alone => ?_⟩
  · have emits : changeOn s h v = e :: left := (changeOn_of_ne change).trans events
    refine ⟨{ ctx := checkCtx h v (e :: left), handler := h, input := v, pending := left, rest := [] },
      rfl, rfl, rfl, rfl, rfl, rfl, ?_⟩
    rw [exec_check, emits, handlerStep_waits active]
    rfl
  · exact ⟨_, runHandlers_goes_on handlerOrder pollStart s active rfl, exec_poll_of_no_poll alone⟩

/-- When the listener of its emission has returned, the innermost suspended operation goes on. -/
theorem step_of_listener_returned {s : State} {a : Activation} {below : List Activation} {later : List NestedInput}
    (stack : s.stack = a :: below) (returned : (s.nest = [] ∧ later = []) ∨ s.nest = .ret :: later) :
    step s = .next (resumeActivation a { s with stack := below, nest := later }) := by
  rcases returned with ⟨nest, rfl⟩ | nest
  all_goals
    rw [step_of_fetch_none (by simp [fetch, stack, nest])]
    simp [proceed, stack, nest]

/-- Settles O41: the rest of the handler step waits again or ends, and what follows is the end of a CHECK or the run of the
handlers left to a POLL. -/
theorem suspendedOperationGoesOnAfterItsListener : Obligations.SuspendedOperationGoesOnAfterItsListener := by
  intro s a below later stack returned
  rw [step_of_listener_returned stack returned, resumeActivation]
  refine ⟨?waits, ?check, ?pollEnds, ?pollGoesOn⟩
  case waits =>
    intro e left pending active
    rw [pending, handlerStep_waits active]
    rfl
  case check =>
    intro h v emitter last ends
    rw [handlerStep_ends ends.symm, last]
    simp [runHandlers, finishEmitter, emitter, emitterInstr, emitterOk]
    rfl
  case pollEnds =>
    rintro poll rfl
    obtain ⟨ctx, t, run, emitter, ends⟩ := runHandlers_gives a.rest a.ctx
      (setPrev (afterEvents { s with stack := below, nest := [] } a.pending) a.handler a.input) rfl
    exact ⟨ctx, t, run, by rw [handlerStep_ends (.inr rfl), ends, finishEmitter_poll (emitter.trans poll)]⟩
  case pollGoesOn =>
    intro poll silent active
    refine ⟨_, runHandlers_goes_on a.rest a.ctx _ active poll, ?_⟩
    rw [handlerStep_ends (.inl silent), silent, afterEvents_nil]
    rfl

end Sys2Proof.Machine
end

section
/-! SUPPORT. The handler cells, the events and the inputs of a POLL that no listener interrupts, read off its run
(O44, O45, O46, O47, O48). -/

namespace Sys2Proof.Machine

/-! ### The cells and the events of a run -/

section
variable {h : Handler} {hs rest : List Handler} {ctx ctx' : EmitterCtx} {snapshot snapshot' : Option Word} {s t : State}
  {v ok : Bool}

theorem InputGives.same (gives : InputGives h snapshot s v ok snapshot' t) : SameButInput s t := by
  rcases gives.cases with ⟨reads, after, -⟩ | ⟨-, -, -, rfl⟩ | ⟨-, -, -, rfl⟩
  · exact after.same
  · exact (clearFlag_reads s .diag).same
  · exact (clearFlag_reads s .index).same

/-- A run writes the cells of its own handlers only. -/
theorem RunGives.kept (run : RunGives hs ctx s ctx' t) (other : h ∉ hs) : t.prev.get h = s.prev.get h := by
  induction hs generalizing ctx s with
  | nil =>
    obtain ⟨-, rfl⟩ := run
    rfl
  | cons k rest ih =>
    obtain ⟨v, ok, snapshot, u, gives, run⟩ := run
    obtain ⟨ne, notLater⟩ := not_or.1 (mt List.mem_cons.2 other)
    rw [ih run notLater, afterStep, HandlerFile.get_set_of_ne _ _ _ _ ne, gives.same.prev]

/-- The input of the first handler is what its cell holds at the end. -/
theorem RunGives.cons (run : RunGives (h :: rest) ctx s ctx' t) (once : h ∉ rest) :
    ∃ ok snapshot u, InputGives h ctx.snapshot s (t.prev.get h) ok snapshot u ∧
      RunGives rest (afterInput ctx ok snapshot (changeOn u h (t.prev.get h))) (afterStep u h (t.prev.get h)) ctx' t := by
  obtain ⟨v, ok, snapshot, u, gives, run⟩ := run
  have cell : t.prev.get h = v := by rw [run.kept once, afterStep, HandlerFile.get_set_same]
  rw [cell]
  exact ⟨ok, snapshot, u, gives, run⟩

/-- A run emits, in the order of its handlers, the events of the changes that it makes to their cells. -/
theorem RunGives.events (run : RunGives hs ctx s ctx' t) (nodup : hs.Nodup) :
    t.events = s.events ++ hs.flatMap fun h => changeOn s h (t.prev.get h) := by
  induction hs generalizing ctx s with
  | nil =>
    obtain ⟨-, rfl⟩ := run
    simp
  | cons h rest ih =>
    obtain ⟨once, nodup⟩ := List.nodup_cons.1 nodup
    obtain ⟨ok, snapshot, u, gives, run⟩ := run.cons once
    have first : changeOn u h (t.prev.get h) = changeOn s h (t.prev.get h) := by simp [changeOn, gives.same.prev]
    have later : (rest.flatMap fun k => changeOn (afterStep u h (t.prev.get h)) k (t.prev.get k)) =
        rest.flatMap fun k => changeOn s k (t.prev.get k) := by
      refine List.flatMap_congr fun k mem => ?_
      have ne : k ≠ h := fun same => once (same ▸ mem)
      simp [changeOn, afterStep, HandlerFile.get_set_of_ne _ _ _ _ ne, gives.same.prev]
    rw [ih run nodup, later, List.flatMap_cons, ← List.append_assoc, ← first, ← gives.same.events]
    rfl

end

/-- The handlers whose inputs are taken from DRV_STATUS (spec/42_edge_detector.md R205, R206). -/
def temperatureHandlers : List Handler := [.nt, .otpw, .ot, .t120, .t143, .t150, .t157]

section
variable {s t : State} {ctx : EmitterCtx}

theorem exists_run_of_poll (quiet : s.nest = []) (alone : ¬ PollInProgress s) :
    ∃ ctx t, RunGives handlerOrder pollStart s ctx t ∧ exec .poll s = .next (pollEnds ctx t) := by
  obtain ⟨ctx, t, -, run, polled, -⟩ := pollCompletesWithinNineReads s quiet alone
  exact ⟨ctx, t, run, polled⟩

theorem poll_events (run : RunGives handlerOrder pollStart s ctx t) :
    t.events = s.events ++ handlerOrder.flatMap fun h => changeOn s h (t.prev.get h) := run.events (by decide)

/-- A poll acquires the diag and the index input, and then those of the temperature handlers, before which no word of
DRV_STATUS has been read (spec/42_edge_detector.md R207, R208). -/
theorem poll_inputs (run : RunGives handlerOrder pollStart s ctx t) :
    ∃ diagOk u indexOk r ctx₁, InputGives .diag none s t.prev.diag diagOk none u ∧
      InputGives .index none (afterStep u .diag t.prev.diag) t.prev.index indexOk none r ∧ ctx₁.snapshot = none ∧
      RunGives temperatureHandlers ctx₁ (afterStep r .index t.prev.index) ctx t := by
  obtain ⟨diagOk, snapshot, u, diag, run⟩ := RunGives.cons run (by decide)
  obtain ⟨indexOk, snapshot', r, index, run⟩ := run.cons (by decide)
  obtain rfl : snapshot = none := diag.1
  obtain rfl : snapshot' = none := index.1
  exact ⟨diagOk, u, indexOk, r, _, diag, index, rfl, run⟩

end

/-! ### The diag and the index input -/

section
variable {snapshot snapshot' : Option Word} {s t : State} {v ok : Bool}

theorem InputGives.diag_of_irq (gives : InputGives .diag snapshot s v ok snapshot' t) (irq : s.irqDiag = true) :
    v = s.diagFlag ∧ t = { s with diagFlag := false } := by
  obtain ⟨-, gives⟩ := gives
  rw [if_pos irq] at gives
  exact ⟨gives.1, gives.2.2⟩

theorem InputGives.diag_of_pin (gives : InputGives .diag snapshot s v ok snapshot' t) (irq : s.irqDiag = false)
    (source : s.params.diagPollSource = .pin) : ∃ k n, v = Config.diagPin k ∧ t = { s with draws := n } := by
  obtain ⟨-, gives⟩ := gives
  rw [if_neg (by simp [irq]), source] at gives
  exact gives.2

theorem InputGives.diag_of_register (gives : InputGives .diag snapshot s v ok snapshot' t) (irq : s.irqDiag = false)
    (source : s.params.diagPollSource = .register) :
    ∃ w, ReadGives s (fieldAddr (field s .diag)) w ok t ∧ v = decide (extractField (field s .diag) w ≠ 0) := by
  obtain ⟨-, gives⟩ := gives
  rwa [if_neg (by simp [irq]), source] at gives

/-- From its flag or from its pin the diag input is taken without a read. -/
theorem InputGives.diag_off_line (gives : InputGives .diag snapshot s v ok snapshot' t)
    (offLine : s.irqDiag = true ∨ s.params.diagPollSource = .pin) : t.indexFlag = s.indexFlag ∧ t.txLog = s.txLog := by
  cases irq : s.irqDiag with
  | true =>
    obtain ⟨-, rfl⟩ := gives.diag_of_irq irq
    exact ⟨rfl, rfl⟩
  | false =>
    obtain ⟨_, _, -, rfl⟩ := gives.diag_of_pin irq (offLine.resolve_left (by simp [irq]))
    exact ⟨rfl, rfl⟩

theorem InputGives.index_of_irq (gives : InputGives .index snapshot s v ok snapshot' t) (irq : s.irqIndex = true) :
    v = s.indexFlag ∧ t = { s with indexFlag := false } := by
  obtain ⟨-, -, gives⟩ := gives
  rwa [if_pos irq] at gives

theorem InputGives.index_of_constFalse (gives : InputGives .index snapshot s v ok snapshot' t) (irq : s.irqIndex = false)
    (source : s.params.indexPollSource = .constFalse) : v = false := by
  obtain ⟨-, -, gives⟩ := gives
  rw [if_neg (by simp [irq]), source] at gives
  exact gives.1

theorem InputGives.index_of_pin (gives : InputGives .index snapshot s v ok snapshot' t) (irq : s.irqIndex = false)
    (source : s.params.indexPollSource = .pin) : ∃ n, v = Config.indexPin n := by
  obtain ⟨-, -, gives⟩ := gives
  rw [if_neg (by simp [irq]), source] at gives
  obtain ⟨n, -, level, -⟩ := gives
  exact ⟨n, level⟩

/-- The index input sends nothing, whatever its source. -/
theorem InputGives.index_txLog (gives : InputGives .index snapshot s v ok snapshot' t) : t.txLog = s.txLog := by
  obtain ⟨-, -, gives⟩ := gives
  split at gives
  · rw [gives.2]
  · split at gives
    · rw [gives.2]
    · obtain ⟨_, _, -, rfl⟩ := gives
      rfl

end

/-! ### Words of the chip -/

/-- A well-formed reply on the line gives its word, with the edges inside the read. -/
theorem ReadGives.of_reply {s t : State} {reg : RegAddr} {w x : Word} {ok : Bool} {es : List EdgeSrc}
    {rest : List WireAnswer} (read : ReadGives s reg x ok t) (line : ¬ ShadowRead s reg)
    (next : s.wire = { rx := .reply (buildP8 reg w), edges := es } :: rest) :
    x = w ∧ t = afterFrames s [buildR4 s.node reg] := by
  obtain ⟨-, rfl, word, sent⟩ := read.resolve_left fun shadow => line shadow.1
  have window : replyWindow s reg = buildP8 reg w := replyWindow_of_reply next reg
  have wellFormed : replyWellFormed (buildP8 reg w) reg = true := (replyWellFormed_iff _ _).2 ⟨w, rfl⟩
  rw [window] at word
  exact ⟨(word wellFormed).trans (replyValue_p8 reg w _), sent⟩

/-- A field of one bit is true as an input exactly if the bit is. -/
theorem extractField_bit_ne_zero (reg : RegAddr) (k : Nat) (w : Word) :
    decide (extractField (unsignedField reg k 1) w ≠ 0) = w.getLsbD k := by
  rw [extractField_of_unsigned rfl]
  simp [unsignedField, BitVec.extractLsb'_toNat, BitVec.getLsbD, Nat.testBit_eq_decide_div_mod_eq,
    Nat.shiftRight_eq_div_pow]
  norm_cast

/-- The input of a temperature handler by one word of DRV_STATUS, for any FIELD_TABLE (spec/42_edge_detector.md R205,
R206). -/
def statusInput (table : FieldTable) (w : Word) : Handler → Bool
  | .diag => false
  | .index => false
  | .nt => decide (extractField (fieldOf table .otpw) w = 0 ∧ extractField (fieldOf table .ot) w = 0)
  | .otpw => decide (extractField (fieldOf table .otpw) w ≠ 0)
  | .ot => decide (extractField (fieldOf table .ot) w ≠ 0)
  | .t120 => decide (extractField (fieldOf table .t120) w ≠ 0)
  | .t143 => decide (extractField (fieldOf table .t143) w ≠ 0)
  | .t150 => decide (extractField (fieldOf table .t150) w ≠ 0)
  | .t157 => decide (extractField (fieldOf table .t157) w ≠ 0)

/-- The input of a temperature handler by the bits of DRV_STATUS (spec/42_edge_detector.md R205, R206). -/
def statusBits (w : Word) : Handler → Bool
  | .diag => false
  | .index => false
  | .nt => !w.getLsbD 0 && !w.getLsbD 1
  | .otpw => w.getLsbD 0
  | .ot => w.getLsbD 1
  | .t120 => w.getLsbD 8
  | .t143 => w.getLsbD 9
  | .t150 => w.getLsbD 10
  | .t157 => w.getLsbD 11

theorem decide_and_eq_zero (a b : Int) : decide (a = 0 ∧ b = 0) = (!decide (a ≠ 0) && !decide (b ≠ 0)) := by simp

theorem statusInput_default (w : Word) (h : Handler) : statusInput defaultFieldTable w h = statusBits w h := by
  cases h
  case diag | index => rfl
  case nt =>
    rw [statusInput, decide_and_eq_zero]
    exact congrArg₂ (fun a b => !a && !b) (extractField_bit_ne_zero regDrvStatus 0 w)
      (extractField_bit_ne_zero regDrvStatus 1 w)
  all_goals exact extractField_bit_ne_zero regDrvStatus _ w

/-! ### The temperature inputs -/

section
variable {h : Handler} {hs : List Handler} {n : FieldName} {snapshot snapshot' : Option Word} {s t : State} {x : Int}
  {v ok : Bool} {ctx ctx' : EmitterCtx} {w : Word}

/-- Each temperature handler but the derived one takes its input from one field of DRV_STATUS. -/
theorem InputGives.of_field (gives : InputGives h snapshot s v ok snapshot' t) (mem : h ∈ temperatureHandlers)
    (notDerived : h ≠ .nt) :
    ∃ n x, StatusGives n snapshot s x ok snapshot' t ∧ v = decide (x ≠ 0) ∧
      (∀ table w, statusInput table w h = decide (extractField (fieldOf table n) w ≠ 0)) ∧
      fieldAddr (fieldOf defaultFieldTable n) = regDrvStatus := by
  cases h
  case diag | index => simp [temperatureHandlers] at mem
  case nt => exact absurd rfl notDerived
  all_goals
    obtain ⟨x, status, input⟩ := gives
    exact ⟨_, x, status, input, fun _ _ => rfl, rfl⟩

/-! #### With one snapshot of a poll -/

theorem StatusGives.of_snapshot (status : StatusGives n (some w) s x ok snapshot' t)
    (single : s.params.pollSnapshot = .single) : x = extractField (field s n) w ∧ snapshot' = some w ∧ t = s := by
  unfold StatusGives at status
  rw [single] at status
  obtain ⟨w', after, rfl, ⟨taken, -, rfl⟩ | ⟨none, -⟩⟩ := status
  · cases taken
    exact ⟨rfl, after, rfl⟩
  · cases none

theorem StatusGives.takes_snapshot (status : StatusGives n none s x ok snapshot' t)
    (single : s.params.pollSnapshot = .single) :
    ∃ w, ReadGives s regDrvStatus w ok t ∧ x = extractField (field s n) w ∧ snapshot' = some w := by
  unfold StatusGives at status
  rw [single] at status
  obtain ⟨w, after, value, ⟨taken, -⟩ | ⟨-, read⟩⟩ := status
  · cases taken
  · exact ⟨w, read, value, after⟩

/-- The derived handler is the first to need the word of a single snapshot, and takes both its fields from it. -/
theorem InputGives.nt_takes_snapshot (gives : InputGives .nt none s v ok snapshot' t)
    (single : s.params.pollSnapshot = .single) :
    ∃ w readOk, ReadGives s regDrvStatus w readOk t ∧ v = statusInput s.params.fieldTable w .nt ∧ snapshot' = some w := by
  obtain ⟨otpw, ok₁, middle, u, ot, ok₂, first, second, input, -⟩ := gives
  obtain ⟨w, read, rfl, rfl⟩ := first.takes_snapshot single
  have params : u.params = s.params := by
    obtain ⟨_, after, -⟩ := read.line
    exact after.same.rest.params
  obtain ⟨rfl, after, rfl⟩ := second.of_snapshot (params ▸ single)
  exact ⟨w, ok₁, read, by rw [input, field, field, params]; rfl, after⟩

theorem InputGives.of_snapshot (gives : InputGives h (some w) s v ok snapshot' t) (mem : h ∈ temperatureHandlers)
    (notDerived : h ≠ .nt) (single : s.params.pollSnapshot = .single) :
    v = statusInput s.params.fieldTable w h ∧ snapshot' = some w ∧ t = s := by
  obtain ⟨n, x, status, rfl, input, -⟩ := gives.of_field mem notDerived
  obtain ⟨rfl, after, rfl⟩ := status.of_snapshot single
  exact ⟨(input _ _).symm, after, rfl⟩

/-- Once the word is read, the handlers left take their inputs from it and send nothing more. -/
theorem RunGives.of_snapshot (run : RunGives hs ctx s ctx' t) (nodup : hs.Nodup)
    (temperature : ∀ h ∈ hs, h ∈ temperatureHandlers ∧ h ≠ .nt) (single : s.params.pollSnapshot = .single)
    (taken : ctx.snapshot = some w) :
    (∀ h ∈ hs, t.prev.get h = statusInput s.params.fieldTable w h) ∧ t.wire = s.wire ∧ t.txLog = s.txLog := by
  induction hs generalizing ctx s with
  | nil =>
    obtain ⟨-, rfl⟩ := run
    exact ⟨by simp, rfl, rfl⟩
  | cons h rest ih =>
    obtain ⟨once, nodup⟩ := List.nodup_cons.1 nodup
    obtain ⟨⟨mem, notDerived⟩, others⟩ := List.forall_mem_cons.1 temperature
    obtain ⟨ok, snapshot, u, gives, later⟩ := run.cons once
    rw [taken] at gives
    obtain ⟨input, rfl, rfl⟩ := gives.of_snapshot mem notDerived single
    obtain ⟨cells, wire, txLog⟩ := ih later nodup others single rfl
    exact ⟨List.forall_mem_cons.2 ⟨input, cells⟩, wire, txLog⟩

/-- With a single snapshot the temperature handlers of a poll take their inputs from the word of one read. -/
theorem RunGives.of_single (run : RunGives temperatureHandlers ctx s ctx' t) (single : s.params.pollSnapshot = .single)
    (untaken : ctx.snapshot = none) :
    ∃ w readOk u, ReadGives s regDrvStatus w readOk u ∧
      (∀ h ∈ temperatureHandlers, t.prev.get h = statusInput s.params.fieldTable w h) ∧
      t.wire = u.wire ∧ t.txLog = u.txLog := by
  obtain ⟨ok, snapshot, u, gives, run⟩ := RunGives.cons run (by decide)
  have params := gives.same.rest.params
  rw [untaken] at gives
  obtain ⟨w, readOk, read, input, rfl⟩ := gives.nt_takes_snapshot single
  obtain ⟨cells, wire, txLog⟩ := run.of_snapshot (by decide) (by decide) ((congrArg _ params).trans single) rfl
  refine ⟨w, readOk, u, read, List.forall_mem_cons.2 ⟨input, fun h mem => ?_⟩, wire, txLog⟩
  exact (cells h mem).trans (by rw [← params]; rfl)

/-! #### With a read of its own for each field -/

/-- The parameters of a poll that reads each field of the default DRV_STATUS over the line. -/
structure ReadsEachField (p : Params) : Prop where
  perField : p.pollSnapshot = .perField
  table : p.fieldTable = defaultFieldTable
  readback : p.readback = .wire

theorem StatusGives.of_reply {rest : List WireAnswer} (status : StatusGives n snapshot s x ok snapshot' t)
    (params : ReadsEachField s.params) (addr : fieldAddr (fieldOf defaultFieldTable n) = regDrvStatus)
    (next : s.wire = healthyReply regDrvStatus w :: rest) :
    x = extractField (fieldOf defaultFieldTable n) w ∧ t = afterFrames s [buildR4 s.node regDrvStatus] := by
  obtain ⟨perField, table, readback⟩ := params
  have line : ¬ ShadowRead s regDrvStatus := fun shadow => by cases readback.symm.trans shadow.1
  unfold StatusGives at status
  rw [perField, field, table, addr] at status
  obtain ⟨-, w', read, rfl⟩ := status
  obtain ⟨rfl, sent⟩ := read.of_reply line next
  exact ⟨rfl, sent⟩

theorem InputGives.of_reply {rest : List WireAnswer} (gives : InputGives h snapshot s v ok snapshot' t)
    (mem : h ∈ temperatureHandlers) (notDerived : h ≠ .nt) (params : ReadsEachField s.params)
    (next : s.wire = healthyReply regDrvStatus w :: rest) :
    v = statusBits w h ∧ t = afterFrames s [buildR4 s.node regDrvStatus] := by
  obtain ⟨n, x, status, rfl, input, addr⟩ := gives.of_field mem notDerived
  obtain ⟨rfl, sent⟩ := status.of_reply params addr next
  exact ⟨by rw [← statusInput_default, input], sent⟩

/-- The derived input takes two reads of its own. -/
theorem InputGives.nt_of_two_replies {w₁ w₂ : Word} {rest : List WireAnswer}
    (gives : InputGives .nt snapshot s v ok snapshot' t) (params : ReadsEachField s.params)
    (next : s.wire = healthyReply regDrvStatus w₁ :: healthyReply regDrvStatus w₂ :: rest) :
    v = (!w₁.getLsbD 0 && !w₂.getLsbD 1) ∧ t = afterFrames s (List.replicate 2 (buildR4 s.node regDrvStatus)) := by
  obtain ⟨otpw, _, middle, u, ot, _, first, second, rfl, -⟩ := gives
  obtain ⟨rfl, rfl⟩ := first.of_reply params rfl next
  obtain ⟨rfl, rfl⟩ := second.of_reply params rfl (congrArg (List.drop 1) next)
  refine ⟨?_, afterFrames_afterFrames s _ _⟩
  rw [decide_and_eq_zero]
  exact congrArg₂ (fun a b => !a && !b) (extractField_bit_ne_zero regDrvStatus 0 w₁)
    (extractField_bit_ne_zero regDrvStatus 1 w₂)

/-- Handlers of one field each take their inputs from the words that the chip replies, in order. -/
theorem RunGives.of_replies {words : List (Handler × Word)} {rest : List WireAnswer}
    (run : RunGives (words.map Prod.fst) ctx s ctx' t) (nodup : (words.map Prod.fst).Nodup)
    (temperature : ∀ h ∈ words.map Prod.fst, h ∈ temperatureHandlers ∧ h ≠ .nt) (params : ReadsEachField s.params)
    (wire : s.wire = words.map (healthyReply regDrvStatus ·.2) ++ rest) :
    (∀ x ∈ words, t.prev.get x.1 = statusBits x.2 x.1) ∧ t.wire = rest ∧
      t.txLog = s.txLog ++ List.replicate words.length (buildR4 s.node regDrvStatus) := by
  induction words generalizing ctx s with
  | nil =>
    obtain ⟨-, rfl⟩ := run
    exact ⟨by simp, wire, by simp⟩
  | cons first words ih =>
    obtain ⟨once, nodup⟩ := List.nodup_cons.1 nodup
    obtain ⟨⟨mem, notDerived⟩, others⟩ := List.forall_mem_cons.1 temperature
    obtain ⟨ok, snapshot, u, gives, later⟩ := run.cons once
    obtain ⟨input, rfl⟩ := gives.of_reply mem notDerived params wire
    obtain ⟨cells, taken, sent⟩ := ih later nodup others params (congrArg (List.drop 1) wire)
    refine ⟨List.forall_mem_cons.2 ⟨input, cells⟩, taken, sent.trans ?_⟩
    simp [afterStep, afterFrames, List.replicate_succ]

/-! #### What is sent -/

/-- From `s` to `t` nothing but requests for DRV_STATUS is sent. -/
structure AsksStatus (s t : State) : Prop where
  node : t.node = s.node
  params : t.params = s.params
  sent : ∃ k, t.txLog = s.txLog ++ List.replicate k (buildR4 s.node regDrvStatus)

theorem AsksStatus.refl (s : State) : AsksStatus s s := ⟨rfl, rfl, 0, by simp⟩

theorem AsksStatus.trans {u : State} (first : AsksStatus s t) (second : AsksStatus t u) : AsksStatus s u := by
  obtain ⟨node, params, j, sent⟩ := first
  obtain ⟨node', params', k, sent'⟩ := second
  exact ⟨node'.trans node, params'.trans params, j + k, by rw [sent', sent, node, List.append_assoc, List.replicate_add]⟩

theorem ReadGives.asksStatus (read : ReadGives s regDrvStatus w ok t) : AsksStatus s t := by
  rcases read with ⟨-, -, -, rfl⟩ | ⟨-, -, -, rfl⟩
  · exact .refl t
  · exact ⟨rfl, rfl, 1, rfl⟩

theorem StatusGives.asksStatus (status : StatusGives n snapshot s x ok snapshot' t)
    (table : s.params.fieldTable = defaultFieldTable) (addr : fieldAddr (fieldOf defaultFieldTable n) = regDrvStatus) :
    AsksStatus s t := by
  unfold StatusGives at status
  split at status
  next =>
    obtain ⟨-, w, read, -⟩ := status
    rw [Machine.field, table, addr] at read
    exact read.asksStatus
  next =>
    obtain ⟨w, -, -, ⟨-, -, rfl⟩ | ⟨-, read⟩⟩ := status
    · exact .refl t
    · exact read.asksStatus

theorem InputGives.asksStatus (gives : InputGives h snapshot s v ok snapshot' t) (mem : h ∈ temperatureHandlers)
    (table : s.params.fieldTable = defaultFieldTable) : AsksStatus s t := by
  by_cases derived : h = .nt
  · subst derived
    obtain ⟨otpw, _, middle, u, ot, _, first, second, -⟩ := gives
    have asks := first.asksStatus table rfl
    exact asks.trans (second.asksStatus (asks.params ▸ table) rfl)
  · obtain ⟨n, x, status, -, -, addr⟩ := gives.of_field mem derived
    exact status.asksStatus table addr

theorem RunGives.asksStatus (run : RunGives hs ctx s ctx' t) (temperature : ∀ h ∈ hs, h ∈ temperatureHandlers)
    (table : s.params.fieldTable = defaultFieldTable) : AsksStatus s t := by
  induction hs generalizing ctx s with
  | nil =>
    obtain ⟨-, rfl⟩ := run
    exact .refl t
  | cons h rest ih =>
    obtain ⟨mem, others⟩ := List.forall_mem_cons.1 temperature
    obtain ⟨v, ok, snapshot, u, gives, run⟩ := run
    have input := gives.asksStatus mem table
    have stepped : AsksStatus s (afterStep u h v) := ⟨input.node, input.params, input.sent⟩
    exact stepped.trans (ih run others (stepped.params ▸ table))

end

end Sys2Proof.Machine
end

section
/-! SUPPORT. The statements on a POLL that no listener interrupts: its inputs and its events (O44, O45, O46, O47, O48). -/

namespace Sys2Proof.Machine

/-! ### The inputs of a poll -/

section
variable {s t : State} {ctx : EmitterCtx}

/-- On the interrupt paths a poll takes both flags and goes on to the temperature inputs from the line as it was. -/
theorem poll_takes_flags (run : RunGives handlerOrder pollStart s ctx t) (irqDiag : s.irqDiag = true)
    (irqIndex : s.irqIndex = true) :
    t.prev.diag = s.diagFlag ∧ t.prev.index = s.indexFlag ∧
      ∃ ctx₁ r, RunGives temperatureHandlers ctx₁ r ctx t ∧ ctx₁.snapshot = none ∧ r.params = s.params ∧ r.node = s.node ∧
        r.wire = s.wire ∧ r.txLog = s.txLog := by
  obtain ⟨_, u, _, r, ctx₁, diag, index, untaken, run⟩ := poll_inputs run
  obtain ⟨diagFlag, rfl⟩ := diag.diag_of_irq irqDiag
  obtain ⟨indexFlag, rfl⟩ := index.index_of_irq irqIndex
  exact ⟨diagFlag, indexFlag, ctx₁, _, run, untaken, rfl, rfl, rfl, rfl⟩

/-- The flags stay taken where no edge falls inside the reads of the poll. -/
theorem poll_leaves_flags_taken (run : RunGives handlerOrder pollStart s ctx t) (irqDiag : s.irqDiag = true)
    (irqIndex : s.irqIndex = true) (noEdge : edgesTaken s t = []) : t.diagFlag = false ∧ t.indexFlag = false := by
  have diag := RunGives.diag_taken run (by decide) irqDiag
  have index := RunGives.index_taken run (by decide) irqIndex
  simp only [noEdge, List.contains_nil] at diag index
  exact ⟨diag, by simpa using index⟩

end

/-- Settles O44: both flags, the two words of the derived input, and one word for each of the other six. -/
theorem pollTakesItsInputsInOrder : Obligations.PollTakesItsInputsInOrder := by
  intro s w₁ w₂ w₃ w₄ w₅ w₆ w₇ w₈ rest quiet alone irqDiag irqIndex table readback perField wire
  obtain ⟨ctx, t, run, polled⟩ := exists_run_of_poll quiet alone
  obtain ⟨diag, index, ctx₁, r, later, -, params, node, line, txLog⟩ := poll_takes_flags run irqDiag irqIndex
  have fields : ReadsEachField r.params := params ▸ ⟨perField, table, readback⟩
  obtain ⟨_, _, u, gives, six⟩ := RunGives.cons later (by decide)
  obtain ⟨nt, rfl⟩ := gives.nt_of_two_replies fields (line.trans wire)
  obtain ⟨cells, taken, sent⟩ := RunGives.of_replies
    (words := [(.otpw, w₃), (.ot, w₄), (.t120, w₅), (.t143, w₆), (.t150, w₇), (.t157, w₈)]) six (by simp)
    (by simp [temperatureHandlers]) fields (congrArg (List.drop 2) (line.trans wire))
  simp only [List.forall_mem_cons] at cells
  obtain ⟨otpw, ot, t120, t143, t150, t157, -⟩ := cells
  have asked : t.txLog = s.txLog ++ List.replicate 8 (buildR4 s.node regDrvStatus) := by
    rw [sent]
    simp [afterStep, afterFrames, txLog, node, List.replicate_succ]
  have noEdge : edgesTaken s t = [] := by simp [edgesTaken, asked, wire, healthyReply]
  obtain ⟨diagFlag, indexFlag⟩ := poll_leaves_flags_taken run irqDiag irqIndex noEdge
  refine ⟨_, t.prev, polled, HandlerFile.ext_get _ _ fun h => ?_, rfl, diagFlag, indexFlag, taken, asked,
    poll_events (t := t) run⟩
  cases h
  exacts [diag, index, nt, otpw, ot, t120, t143, t150, t157]

/-- Settles O45: both flags, and the one word that the derived handler reads. -/
theorem pollSingleUsesOneSnapshot : Obligations.PollSingleUsesOneSnapshot := by
  intro s w rest quiet alone irqDiag irqIndex table readback single wire
  obtain ⟨ctx, t, run, polled⟩ := exists_run_of_poll quiet alone
  obtain ⟨diag, index, ctx₁, r, later, untaken, params, node, line, txLog⟩ := poll_takes_flags run irqDiag irqIndex
  obtain ⟨w', _, u, read, cells, taken, sent⟩ := later.of_single (params ▸ single) untaken
  have onLine : ¬ ShadowRead r regDrvStatus := fun shadow => by cases (params ▸ readback).symm.trans shadow.1
  obtain ⟨rfl, rfl⟩ := read.of_reply onLine (line.trans wire)
  rw [params, table] at cells
  simp only [statusInput_default, temperatureHandlers, List.forall_mem_cons] at cells
  obtain ⟨nt, otpw, ot, t120, t143, t150, t157, -⟩ := cells
  refine ⟨_, t.prev, polled, HandlerFile.ext_get _ _ fun h => ?_, rfl, ?_, ?_, poll_events (t := t) run⟩
  · cases h
    exacts [diag, index, nt, otpw, ot, t120, t143, t150, t157]
  · exact taken.trans (congrArg (List.drop 1) (line.trans wire))
  · exact sent.trans (by rw [← txLog, ← node]; rfl)

/-- Settles O46: each source by its case of the input. -/
theorem pollTakesDiagAndIndexFromTheirSources : Obligations.PollTakesDiagAndIndexFromTheirSources := by
  intro s quiet alone
  obtain ⟨ctx, t, run, polled⟩ := exists_run_of_poll quiet alone
  obtain ⟨_, u, _, r, ctx₁, diag, index, -, later⟩ := poll_inputs run
  have irqIndex : u.irqIndex = s.irqIndex := diag.same.rest.irqIndex
  have params : u.params = s.params := diag.same.rest.params
  refine ⟨_, polled, fun irq => (diag.diag_of_irq irq).1, fun irq pin => ?diagPin, ?diagChip, fun irq offLine => ?indexFlag,
    fun irq const => ?_, fun irq pin => ?_, fun offLine table => ?asked⟩
  case diagPin =>
    obtain ⟨k, _, level, -⟩ := diag.diag_of_pin irq pin
    exact ⟨k, level⟩
  case diagChip =>
    intro w es rest irq register table line wire
    obtain ⟨w', read, input⟩ := diag.diag_of_register irq register
    rw [field, table] at read input
    obtain ⟨rfl, rfl⟩ := read.of_reply line wire
    obtain ⟨reads, after⟩ := later.reads
    have asked : (afterStep r .index t.prev.index).txLog = s.txLog ++ [buildR4 s.node regIoin] := index.index_txLog
    refine ⟨input.trans (extractField_bit_ne_zero regIoin 4 w'), ⟨reads.map fun read => buildR4 r.node read.2, ?_⟩,
      fun irq => ?_⟩
    · refine after.made.sent.trans ?_
      rw [asked, List.append_assoc]
      rfl
    · refine (index.index_of_irq (irqIndex.trans irq)).1.trans ?_
      simp [afterStep, afterFrames, wire]
  case indexFlag => exact (index.index_of_irq (irqIndex.trans irq)).1.trans (diag.diag_off_line offLine).1
  case asked =>
    have asks := later.asksStatus (fun _ mem => mem) ((congrArg _ (index.same.rest.params.trans params)).trans table)
    have before : (afterStep r .index t.prev.index).txLog = s.txLog :=
      index.index_txLog.trans (diag.diag_off_line offLine).2
    have node : (afterStep r .index t.prev.index).node = s.node := index.same.rest.node.trans diag.same.rest.node
    rw [← before, ← node]
    exact asks.sent
  · exact index.index_of_constFalse (irqIndex.trans irq) ((congrArg _ params).trans const)
  · exact index.index_of_pin (irqIndex.trans irq) ((congrArg _ params).trans pin)

/-! ### The events of a poll -/

/-- The change of a handler's input by which an event is emitted: each event stands in one list of R196 only
(spec/42_edge_detector.md R196). -/
def eventSource : Event → Handler × Bool
  | .stalled => (.diag, true)
  | .diagTriggered => (.diag, true)
  | .indexTriggered => (.index, true)
  | .temperatureNormal => (.nt, true)
  | .overtemperaturePrewarning => (.otpw, true)
  | .overtemperature => (.ot, true)
  | .above120 => (.t120, true)
  | .below120 => (.t120, false)
  | .above143 => (.t143, true)
  | .below143 => (.t143, false)
  | .above150 => (.t150, true)
  | .below150 => (.t150, false)
  | .above157 => (.t157, true)
  | .below157 => (.t157, false)

theorem eventSource_of_mem_changeEvents (h : Handler) (v : Bool) : ∀ e ∈ changeEvents h v, eventSource e = (h, v) := by
  cases h <;> cases v <;> decide

theorem changeOn_sublist (s : State) (h : Handler) (v : Bool) : (changeOn s h v).Sublist (changeEvents h v) := by
  unfold changeOn
  split
  next => exact List.nil_sublist _
  next => exact .refl _

section
variable {s : State} {hs : List Handler} {cell : Handler → Bool}

/-- An event among those of the changes names the handler that emits it and the input that this handler has taken. -/
theorem eventSource_of_mem_changes {e : Event} (mem : e ∈ hs.flatMap fun h => changeOn s h (cell h)) :
    (eventSource e).1 ∈ hs ∧ cell (eventSource e).1 = (eventSource e).2 := by
  obtain ⟨h, isHandler, emitted⟩ := List.mem_flatMap.1 mem
  rw [eventSource_of_mem_changeEvents h _ e ((changeOn_sublist s h _).subset emitted)]
  exact ⟨isHandler, rfl⟩

/-- No handler emits an event of a rise and one of a fall. -/
theorem not_mem_changes_of_opposite {a b : Event} {h : Handler} (rise : eventSource a = (h, true))
    (fall : eventSource b = (h, false)) :
    ¬ (a ∈ (hs.flatMap fun h => changeOn s h (cell h)) ∧ b ∈ hs.flatMap fun h => changeOn s h (cell h)) := by
  rintro ⟨first, second⟩
  have up := (eventSource_of_mem_changes first).2
  have down := (eventSource_of_mem_changes second).2
  rw [rise] at up
  rw [fall] at down
  cases up.symm.trans down

/-- The changes emit a part of both lists of every handler. -/
theorem changes_sublist :
    (hs.flatMap fun h => changeOn s h (cell h)).Sublist
      (hs.flatMap fun h => changeEvents h true ++ changeEvents h false) := by
  refine List.Sublist.flatMap_right hs fun h _ => (changeOn_sublist s h _).trans ?_
  cases cell h
  · exact List.sublist_append_right _ _
  · exact List.sublist_append_left _ _

/-- A fall has no longer a list than a rise. -/
theorem length_changeEvents_mono (h : Handler) {v u : Bool} (le : v = true → u = true) :
    (changeEvents h v).length ≤ (changeEvents h u).length := by
  cases v with
  | false => cases h <;> cases u <;> decide
  | true => rw [le rfl]

/-- The changes are counted by any inputs that are true wherever the inputs taken are. -/
theorem length_changes_le (upper : Handler → Bool) (le : ∀ h, cell h = true → upper h = true) :
    (hs.flatMap fun h => changeOn s h (cell h)).length ≤ (hs.map fun h => (changeEvents h (upper h)).length).sum := by
  rw [List.length_flatMap]
  exact List.sum_le_sum fun h _ => (changeOn_sublist s h _).length_le.trans (length_changeEvents_mono h (le h))

/-- A handler that does not rise counts for its fall only. -/
theorem length_changes_le_of_false {k : Handler} (silent : cell k = false) :
    (hs.flatMap fun h => changeOn s h (cell h)).length ≤ (hs.map fun h => (changeEvents h (h != k)).length).sum := by
  refine length_changes_le _ fun h rise => bne_iff_ne.2 ?_
  rintro rfl
  cases silent.symm.trans rise

end

/-- From one word of DRV_STATUS the temperature is normal only without a prewarning and without an overtemperature. -/
theorem statusInput_exclusive {table : FieldTable} {w : Word} (normal : statusInput table w .nt = true) :
    statusInput table w .otpw = false ∧ statusInput table w .ot = false := by
  simpa [statusInput] using normal

/-- Settles O47: the events of the changes, each handler's within its lists; with one snapshot a rise of the derived handler
leaves no rise to the prewarning. -/
theorem pollEventsComeInTheFixedOrder : Obligations.PollEventsComeInTheFixedOrder := by
  intro s t' quiet alone next
  obtain ⟨ctx, t, run, polled⟩ := exists_run_of_poll quiet alone
  cases polled.symm.trans next
  refine ⟨_, poll_events (t := t) run, changes_sublist, not_mem_changes_of_opposite (h := .t120) rfl rfl,
    not_mem_changes_of_opposite (h := .t143) rfl rfl, not_mem_changes_of_opposite (h := .t150) rfl rfl,
    not_mem_changes_of_opposite (h := .t157) rfl rfl, length_changes_le (fun _ => true) (fun _ _ => rfl), fun single => ?_⟩
  obtain ⟨_, u, _, r, ctx₁, diag, index, untaken, later⟩ := poll_inputs run
  have params : r.params = s.params := index.same.rest.params.trans diag.same.rest.params
  obtain ⟨w, _, _, -, cells, -⟩ := later.of_single ((congrArg _ params).trans single) untaken
  have nt := cells .nt (by decide)
  have otpw := cells .otpw (by decide)
  cases normal : t.prev.get .nt with
  | false => exact length_changes_le_of_false normal
  | true => exact length_changes_le_of_false (otpw.trans (statusInput_exclusive (nt.symm.trans normal)).1)

/-- Settles O48: the diag handler runs first, and no other has its events. -/
theorem diagEdgeEmitsTriggeredThenStalledOnce : Obligations.DiagEdgeEmitsTriggeredThenStalledOnce := by
  intro s quiet alone irq
  obtain ⟨ctx, t, run, polled⟩ := exists_run_of_poll quiet alone
  obtain ⟨_, _, _, _, _, diag, -⟩ := poll_inputs run
  have cell : t.prev.diag = s.diagFlag := (diag.diag_of_irq irq).1
  have first : changeOn s .diag t.prev.diag =
      if s.diagFlag = true ∧ s.prev.diag = false then [.diagTriggered, .stalled] else [] := by
    rw [cell]
    cases flag : s.diagFlag <;> cases old : s.prev.diag <;> simp [changeOn, HandlerFile.get, changeEvents, old]
  refine ⟨_, handlerOrder.tail.flatMap fun h => changeOn s h (t.prev.get h), polled, ?_,
    fun mem => absurd (eventSource_of_mem_changes mem).1 (by decide),
    fun mem => absurd (eventSource_of_mem_changes mem).1 (by decide), cell⟩
  rw [← first, List.append_assoc]
  exact poll_events (t := t) run

end Sys2Proof.Machine
end

section
/-! SUPPORT. The current quantizer over the reals: the rounding found bit by bit, the quantizer and the DAC current in steps
of the DAC, and the laws between the two functions (O29, O30, O31, O32, O33, O36, O37, O38). -/

namespace Sys2Proof.Machine

/-! ### The rounding -/

/-- `32√2·a` is never half-way between two integers: it is irrational unless it is zero (spec/43_current_quantizer.md R228). -/
theorem sqrt_two_mul_ne_half (a : Rat) (k : Int) : 32 * √2 * (a : ℝ) ≠ k - 1 / 2 := by
  intro tie
  have double : √2 * ((64 * a : Rat) : ℝ) = ((2 * k - 1 : Int) : ℝ) := by
    push_cast
    linarith
  rcases eq_or_ne a 0 with rfl | ne
  · norm_num at double
    have even : 0 = 2 * k - 1 := by exact_mod_cast double
    omega
  · exact (irrational_sqrt_two.mul_ratCast (mul_ne_zero (by norm_num) ne)).ne_int _ double

theorem round_nonneg {x : ℝ} (nonneg : 0 ≤ x) : 0 ≤ round x := by
  rw [round_eq]
  positivity

/-- The rational test of spec/43_current_quantizer.md R228 compares with the rounded real number. -/
theorem belowRound_iff {a : Rat} (nonneg : 0 ≤ a) (k : Nat) :
    belowRound a k = true ↔ (k : Int) ≤ round (32 * √2 * (a : ℝ)) := by
  have real : (0 : ℝ) ≤ a := by exact_mod_cast nonneg
  rcases Nat.eq_zero_or_pos k with rfl | pos
  · simpa [belowRound] using round_nonneg (by positivity : 0 ≤ 32 * √2 * (a : ℝ))
  have odd : (0 : ℝ) ≤ 2 * k - 1 := by
    have : (1 : ℝ) ≤ k := by exact_mod_cast pos
    linarith
  have square : (8192 : ℝ) * a ^ 2 = (2 * (32 * √2 * a)) ^ 2 := by
    rw [mul_pow, mul_pow, mul_pow, Real.sq_sqrt (by norm_num)]
    ring
  calc belowRound a k = true
    _ ↔ (2 * (k : Rat) - 1) ^ 2 < 8192 * a ^ 2 := by simp [belowRound, pos.ne']
    _ ↔ (2 * (k : ℝ) - 1) ^ 2 < 8192 * (a : ℝ) ^ 2 := by exact_mod_cast Iff.rfl
    _ ↔ 2 * (k : ℝ) - 1 < 2 * (32 * √2 * a) := by rw [square, sq_lt_sq₀ odd (by positivity)]
    _ ↔ ((k : Int) : ℝ) - 1 / 2 < 32 * √2 * a := by
      push_cast
      constructor <;> intro <;> linarith
    _ ↔ ((k : Int) : ℝ) - 1 / 2 ≤ 32 * √2 * a :=
      ⟨le_of_lt, fun le => lt_of_le_of_ne le (sqrt_two_mul_ne_half a k).symm⟩
    _ ↔ (k : Int) ≤ round (32 * √2 * (a : ℝ)) := by rw [round_eq, Int.le_floor, sub_le_iff_le_add]

/-- The search finds a number that the test compares with, where it lies in the range searched. -/
theorem roundSearch_eq {a : Rat} {r : Nat} (test : ∀ k, belowRound a k = true ↔ k ≤ r) (n acc : Nat)
    (low : acc ≤ r) (high : r < acc + 2 ^ n) : roundSearch a n acc = r := by
  induction n generalizing acc with
  | zero =>
    rw [roundSearch]
    omega
  | succ n ih =>
    rw [pow_succ] at high
    rw [roundSearch]
    split
    case isTrue passes => exact ih _ ((test _).1 passes) (by omega)
    case isFalse fails =>
      have above := mt (test _).2 fails
      exact ih _ low (by omega)

/-- The number of bits searched holds the rounded number, since `32√2 < 46`. -/
theorem round_lt_two_pow_roundBits {a : Rat} (nonneg : 0 ≤ a) :
    round (32 * √2 * (a : ℝ)) < 2 ^ roundBits a := by
  have real : (0 : ℝ) ≤ a := by exact_mod_cast nonneg
  have root : √2 ≤ 46 / 32 := Real.sqrt_le_iff.2 (by norm_num)
  have ceil : (a : ℝ) ≤ a.ceil.toNat := by
    have le : a ≤ a.ceil := Rat.le_ceil
    have toNat : a.ceil ≤ a.ceil.toNat := Int.self_le_toNat _
    exact_mod_cast le.trans (by exact_mod_cast toNat)
  have bits : round (32 * √2 * (a : ℝ)) < 46 * a.ceil.toNat + 1 := by
    rw [round_eq, Int.floor_lt]
    push_cast
    nlinarith
  calc round (32 * √2 * (a : ℝ))
    _ < ((46 * a.ceil.toNat + 1 : Nat) : Int) := by exact_mod_cast bits
    _ < 2 ^ roundBits a := by exact_mod_cast Nat.lt_log2_self

/-- Settles O29: the search finds what the test compares with, the rounded real number. -/
theorem rationalRoundingIsRealRounding : Obligations.RationalRoundingIsRealRounding := by
  intro a nonneg
  have real : (0 : ℝ) ≤ a := by exact_mod_cast nonneg
  obtain ⟨r, rounded⟩ := Int.eq_ofNat_of_zero_le (round_nonneg (by positivity : 0 ≤ 32 * √2 * (a : ℝ)))
  have test (k : Nat) : belowRound a k = true ↔ k ≤ r := by rw [belowRound_iff nonneg, rounded, Int.ofNat_le]
  have bits := round_lt_two_pow_roundBits nonneg
  rw [rounded] at bits ⊢
  rw [roundSqrt2, roundSearch_eq test _ 0 r.zero_le (by rw [zero_add]; exact_mod_cast bits)]

/-! ### Currents in steps of the DAC -/

/-- The domains in which the quantizer is defined (spec/43_current_quantizer.md R235). -/
structure QuantizerOk (s : State) : Prop where
  sense : 0 < s.rsense + s.params.rInt
  vfsHi : 0 < s.params.vfsHi
  vfsLo : 0 < s.params.vfsLo

theorem QuantizerOk.of_configOk {s : State} (config : ConfigOk s) (params : ParamsOk s.params) : QuantizerOk s :=
  ⟨add_pos_of_pos_of_nonneg config.rsense params.rInt, params.vfsHi, params.vfsLo⟩

theorem QuantizerOk.of_defaultVoltages {s : State} (rsense : 0 < s.rsense) (default : DefaultVoltages s.params) :
    QuantizerOk s := by
  obtain ⟨hi, lo, rInt⟩ := default
  exact ⟨add_pos_of_pos_of_nonneg rsense rInt, by norm_num [hi], by norm_num [lo]⟩

theorem QuantizerOk.fullScale {s : State} (ok : QuantizerOk s) (vsense : Bool) : 0 < fullScale s.params vsense := by
  cases vsense
  · exact ok.vfsHi
  · exact ok.vfsLo

/-- The quantization step `V / (32√2 · (S.rsense + R_INT))` (spec/43_current_quantizer.md R236). -/
noncomputable def dacStep (s : State) (volts : Rat) : ℝ := volts / (32 * √2 * ((s.rsense : ℝ) + (s.params.rInt : ℝ)))

/-- `x(I, V)`, the current in steps, not rounded (spec/43_current_quantizer.md R227). -/
noncomputable def exactSteps (s : State) (amps : ℝ) (volts : Rat) : ℝ := amps / dacStep s volts

theorem exactSteps_eq (s : State) (amps : ℝ) (volts : Rat) :
    exactSteps s amps volts = 32 * √2 * amps * ((s.rsense : ℝ) + (s.params.rInt : ℝ)) / (volts : ℝ) := by
  rw [exactSteps, dacStep, div_div_eq_mul_div]
  ring

theorem realQuantized_iff (s : State) (amps : ℝ) (volts : Rat) (k : Int) :
    RealQuantized s amps volts k ↔ k = round (exactSteps s amps volts) - 1 := by
  rw [exactSteps_eq, RealQuantized]

/-- A scale stands for one step more than its number (spec/43_current_quantizer.md R236), also where a divisor is zero. -/
theorem csInverse_mul_sqrt_two (s : State) (scale : Int) (vsense : Bool) :
    (csInverse s scale vsense : ℝ) * √2 = (scale + 1) * dacStep s (fullScale s.params vsense) := by
  have root : √2 / 2 = (√2)⁻¹ := Real.sqrt_div_self
  rw [csInverse, dacStep]
  push_cast
  generalize (s.rsense : ℝ) + s.params.rInt = ohms
  calc ((scale : ℝ) + 1) * fullScale s.params vsense / (64 * ohms) * √2
    _ = (scale + 1) * fullScale s.params vsense / (32 * ohms) * (√2 / 2) := by ring
    _ = (scale + 1) * (fullScale s.params vsense / (32 * √2 * ohms)) := by
      rw [root]
      ring

/-- Settles O33: the inverse is counted in steps of the DAC. -/
theorem csInvReturnsTheDacCurrent : Obligations.CsInvReturnsTheDacCurrent := by
  intro s scale vsense low high
  have u5 : isU5 scale = true := by
    simp only [isU5, fitsUnsigned, decide_eq_true_eq]
    omega
  refine ⟨csInverse s scale vsense, congrArg Host.Outcome.next (if_pos u5), ?_⟩
  rw [csInverse_mul_sqrt_two, dacStep, fullScale]
  generalize (s.rsense : ℝ) + s.params.rInt = ohms
  ring

theorem round_sub_one_lt_iff (x : ℝ) (n : Int) : round x - 1 < n ↔ x < n + 1 / 2 := by
  rw [round_eq, sub_lt_iff_lt_add, Int.floor_lt]
  push_cast
  constructor <;> intro <;> linarith

section
variable {s : State} (ok : QuantizerOk s)
include ok

theorem dacStep_pos {volts : Rat} (pos : 0 < volts) : 0 < dacStep s volts := by
  have sense : (0 : ℝ) < (s.rsense : ℝ) + s.params.rInt := by exact_mod_cast ok.sense
  have real : (0 : ℝ) < volts := by exact_mod_cast pos
  unfold dacStep
  positivity

theorem exactSteps_nonneg {amps : ℝ} {volts : Rat} (nonneg : 0 ≤ amps) (pos : 0 < volts) : 0 ≤ exactSteps s amps volts :=
  div_nonneg nonneg (dacStep_pos ok pos).le

theorem quantize_eq {amps volts : Rat} (nonneg : 0 ≤ amps) (pos : 0 < volts) :
    quantize s amps volts = round (exactSteps s amps volts) - 1 := by
  have ratio : 0 ≤ senseRatio s amps volts := div_nonneg (mul_nonneg nonneg ok.sense.le) pos.le
  have steps : 32 * √2 * (senseRatio s amps volts : ℝ) = exactSteps s amps volts := by
    rw [exactSteps_eq, senseRatio]
    push_cast
    ring
  rw [quantize, rationalRoundingIsRealRounding _ ratio, steps]

theorem quantize_lt_iff {amps volts : Rat} (nonneg : 0 ≤ amps) (pos : 0 < volts) (n : Int) :
    quantize s amps volts < n ↔ exactSteps s amps volts < n + 1 / 2 := by
  rw [quantize_eq ok nonneg pos, round_sub_one_lt_iff]

/-- The quantizer is off by at most half a step (spec/43_current_quantizer.md R227). -/
theorem quantize_error {amps volts : Rat} (nonneg : 0 ≤ amps) (pos : 0 < volts) :
    |(quantize s amps volts : ℝ) + 1 - exactSteps s amps volts| ≤ 1 / 2 := by
  rw [quantize_eq ok nonneg pos, abs_sub_comm]
  push_cast
  rw [sub_add_cancel]
  exact abs_sub_round _

theorem quantize_mono {low high volts : Rat} (nonneg : 0 ≤ low) (le : low ≤ high) (pos : 0 < volts) :
    quantize s low volts ≤ quantize s high volts := by
  have steps : exactSteps s low volts ≤ exactSteps s high volts :=
    div_le_div_of_nonneg_right (by exact_mod_cast le) (dacStep_pos ok pos).le
  rw [← Int.lt_add_one_iff, quantize_lt_iff ok nonneg pos]
  exact steps.trans_lt ((quantize_lt_iff ok (nonneg.trans le) pos _).1 (lt_add_one _))

/-- The current of a scale in steps of either range. -/
theorem exactSteps_csInverse (scale : Int) (vsense : Bool) {volts : Rat} {ratio : ℝ} (pos : 0 < volts)
    (volts_eq : (fullScale s.params vsense : ℝ) = ratio * volts) :
    exactSteps s ((csInverse s scale vsense : ℝ) * √2) volts = (scale + 1) * ratio := by
  have step : dacStep s (fullScale s.params vsense) = ratio * dacStep s volts := by
    rw [dacStep, dacStep, volts_eq]
    ring
  rw [exactSteps, csInverse_mul_sqrt_two, step, ← mul_assoc, mul_div_cancel_right₀ _ (dacStep_pos ok pos).ne']

/-- The current of a scale is off the current asked for by as many steps as the scale plus one is off `x(I, V)`. -/
theorem csInverse_sub (amps : ℝ) (scale : Int) (vsense : Bool) :
    (csInverse s scale vsense : ℝ) * √2 - amps =
      (scale + 1 - exactSteps s amps (fullScale s.params vsense)) * dacStep s (fullScale s.params vsense) := by
  rw [csInverse_mul_sqrt_two, sub_mul, exactSteps, div_mul_cancel₀ _ (dacStep_pos ok (ok.fullScale vsense)).ne']

theorem csInverse_error (amps : ℝ) (scale : Int) (vsense : Bool) :
    |(csInverse s scale vsense : ℝ) * √2 - amps| =
      |scale + 1 - exactSteps s amps (fullScale s.params vsense)| * dacStep s (fullScale s.params vsense) := by
  rw [csInverse_sub ok, abs_mul, abs_of_pos (dacStep_pos ok (ok.fullScale vsense))]

theorem csInverse_mono {low high : Int} (le : low ≤ high) (vsense : Bool) :
    csInverse s low vsense ≤ csInverse s high vsense := by
  have real : (low : Rat) ≤ high := by exact_mod_cast le
  have volts := (ok.fullScale vsense).le
  have sense := ok.sense.le
  unfold csInverse
  gcongr

end

/-! ### The forward function -/

@[simp] theorem fullScale_true (p : Params) : fullScale p true = p.vfsLo := rfl
@[simp] theorem fullScale_false (p : Params) : fullScale p false = p.vfsHi := rfl

section
variable (scale : Int) (vsense : Bool)

@[simp] theorem clampScale_scale : (clampScale scale vsense).scale = min 31 (max 0 scale) := rfl
@[simp] theorem clampScale_vsense : (clampScale scale vsense).vsense = vsense := rfl
@[simp] theorem clampScale_warn : (clampScale scale vsense).warn = decide (31 < scale) := rfl

end

theorem clampScale_scale_mono {low high : Int} (le : low ≤ high) (vsense : Bool) :
    (clampScale low vsense).scale ≤ (clampScale high vsense).scale :=
  min_le_min_left _ (max_le_max_left _ le)

/-- The forward function clamps what the quantizer gives for the range that the first result selects
(spec/43_current_quantizer.md R230). -/
theorem csForward_cases (s : State) (amps : Rat) :
    ∃ vsense, (vsense = true ↔ quantize s amps s.params.vfsHi < 16) ∧
      csForward s amps = clampScale (quantize s amps (fullScale s.params vsense)) vsense := by
  by_cases low : quantize s amps s.params.vfsHi < 16
  · exact ⟨true, by simp [low], if_pos low⟩
  · exact ⟨false, by simp [low], if_neg low⟩

/-- The same of the real formulas. -/
theorem realForward_iff (s : State) (amps : ℝ) (scale : Int) (vsense : Bool) :
    RealForward s amps scale vsense ↔
      (vsense = true ↔ round (exactSteps s amps s.params.vfsHi) - 1 < 16) ∧
      scale = min 31 (max 0 (round (exactSteps s amps (fullScale s.params vsense)) - 1)) := by
  simp only [RealForward, realQuantized_iff, exists_eq_left]
  by_cases low : round (exactSteps s amps s.params.vfsHi) - 1 < 16
  · cases vsense <;> simp [low, low.not_ge, fullScale]
  · cases vsense <;> simp [low, not_lt.1 low, fullScale]

/-- Settles O30: each quantizer result is that of the real formula. -/
theorem forwardFollowsTheRealFormulas : Obligations.ForwardFollowsTheRealFormulas := by
  intro s amps nonneg config params
  have ok := QuantizerOk.of_configOk config params
  obtain ⟨vsense, range, forward⟩ := csForward_cases s amps
  rw [forward, clampScale_scale, clampScale_vsense, realForward_iff, range, quantize_eq ok nonneg ok.vfsHi,
    quantize_eq ok nonneg (ok.fullScale vsense)]
  exact ⟨Iff.rfl, rfl⟩

theorem warnScale_clampScale (scale : Int) (vsense : Bool) :
    warnScale (clampScale scale vsense).warn = if 31 < scale then some .capability else none := by
  by_cases above : 31 < scale <;> simp [warnScale, above]

theorem exec_csFwd_of_nonneg {amps : Rat} (nonneg : 0 ≤ amps) (s : State) :
    exec (.csFwd amps) s =
      .next (complete s (.csFwd amps) (.scale (csForward s amps).scale (csForward s amps).vsense) none
        (warnScale (csForward s amps).warn)) :=
  congrArg Host.Outcome.next (if_neg nonneg.not_gt)

/-- Settles O31, by the range selected. -/
theorem csFwdReturnsScaleAndRange : Obligations.CsFwdReturnsScaleAndRange := by
  intro s amps nonneg
  obtain ⟨vsense, range, forward⟩ := csForward_cases s amps
  refine ⟨quantize s amps (fullScale s.params vsense), ?_⟩
  rw [exec_csFwd_of_nonneg nonneg, forward, warnScale_clampScale]
  cases vsense with
  | false => exact .inl ⟨rfl, by simpa using range, rfl⟩
  | true => exact .inr ⟨by simpa using range, rfl, rfl⟩

/-! ### The ranges and the laws -/

section
variable {s : State} (default : DefaultVoltages s.params)
include default

theorem vfsLo_eq_mul_vfsHi : (s.params.vfsLo : ℝ) = 36 / 65 * s.params.vfsHi := by
  obtain ⟨hi, lo, -⟩ := default
  norm_num [hi, lo]

/-- A first result below 16 gives at most 29 in the high-sensitivity range (spec/43_current_quantizer.md R234). -/
theorem quantize_vfsLo_lt {amps : Rat} (rsense : 0 < s.rsense) (nonneg : 0 ≤ amps)
    (low : quantize s amps s.params.vfsHi < 16) : quantize s amps s.params.vfsLo < 30 := by
  have ok := QuantizerOk.of_defaultVoltages rsense default
  rw [quantize_lt_iff ok nonneg ok.vfsHi, exactSteps_eq] at low
  rw [quantize_lt_iff ok nonneg ok.vfsLo, exactSteps_eq, vfsLo_eq_mul_vfsHi default, mul_comm (36 / 65 : ℝ), ← div_div]
  push_cast at low ⊢
  linarith

end

/-- Settles O32: the low-sensitivity range is selected by a result of at least 16. -/
theorem forwardRangesOfTheScale : Obligations.ForwardRangesOfTheScale := by
  intro s amps nonneg rsense default
  obtain ⟨vsense, range, forward⟩ := csForward_cases s amps
  rw [forward]
  cases vsense with
  | false =>
    have high : 16 ≤ quantize s amps (fullScale s.params false) := by simpa using range
    refine ⟨fun absurd => Bool.noConfusion absurd, fun _ => ?_⟩
    rw [clampScale_scale]
    omega
  | true =>
    have low : quantize s amps (fullScale s.params true) < 30 :=
      quantize_vfsLo_lt default rsense nonneg (by simpa using range)
    refine ⟨fun _ => ?_, fun absurd => Bool.noConfusion absurd⟩
    rw [clampScale_scale, clampScale_warn, decide_eq_false_iff_not]
    omega

/-- Settles O36: a scale comes back from its own range, and the other range decides whether its own is selected. -/
theorem inverseLawOnItsDomain : Obligations.InverseLawOnItsDomain := by
  intro s scale vsense rsense default low high
  have ok := QuantizerOk.of_defaultVoltages rsense default
  have back : round (exactSteps s ((csInverse s scale vsense : ℝ) * √2) (fullScale s.params vsense)) - 1 = scale := by
    rw [exactSteps_csInverse ok scale vsense (ok.fullScale vsense) (one_mul _).symm, mul_one]
    norm_cast
    rw [round_intCast, add_sub_cancel_right]
  have clamped : scale = min 31 (max 0 scale) := by omega
  rw [realForward_iff, back, and_iff_left clamped]
  cases vsense with
  | false =>
    have first : round (exactSteps s ((csInverse s scale false : ℝ) * √2) s.params.vfsHi) - 1 = scale := back
    simp [first]
  | true =>
    have first : round (exactSteps s ((csInverse s scale true : ℝ) * √2) s.params.vfsHi) - 1 < 16 ↔ scale ≤ 28 := by
      rw [round_sub_one_lt_iff, exactSteps_csInverse ok scale true ok.vfsHi (vfsLo_eq_mul_vfsHi default)]
      calc ((scale : ℝ) + 1) * (36 / 65) < (16 : Int) + 1 / 2
        _ ↔ 72 * ((scale : ℝ) + 1) < 2145 := by
          push_cast
          constructor <;> intro <;> linarith
        _ ↔ 72 * (scale + 1) < 2145 := by exact_mod_cast Iff.rfl
        _ ↔ scale ≤ 28 := by omega
    simp [first]

theorem clamp_of_quiet {k : Int} (low : 0 ≤ k) (quiet : ¬ 31 < k) : min 31 (max 0 k) = k := by omega

/-- In steps, a scale that the upper clamp leaves is off by at most one: the lower clamp applies only below half a step
(spec/43_current_quantizer.md R242). -/
theorem abs_clamp_sub_le_one {x : ℝ} {k : Int} (nonneg : 0 ≤ x) (near : |(k : ℝ) + 1 - x| ≤ 1 / 2) (quiet : ¬ 31 < k) :
    |((min 31 (max 0 k) : Int) : ℝ) + 1 - x| ≤ 1 := by
  rcases lt_or_ge k 0 with clamped | low
  · have bottom : min 31 (max 0 k) = 0 := by omega
    have negative : (k : ℝ) ≤ -1 := by exact_mod_cast Int.le_sub_one_of_lt clamped
    obtain ⟨below, -⟩ := abs_le.1 near
    rw [bottom, abs_le]
    push_cast
    constructor <;> linarith
  · rw [clamp_of_quiet low quiet]
    linarith

/-- Settles O37: the error in steps, times the step. -/
theorem quantizationErrorIsAtMostOneStep : Obligations.QuantizationErrorIsAtMostOneStep := by
  intro s amps nonneg config params
  have ok := QuantizerOk.of_configOk config params
  obtain ⟨vsense, -, forward⟩ := csForward_cases s amps
  simp only [forward, clampScale_scale, clampScale_vsense, clampScale_warn, decide_eq_false_iff_not, decide_eq_true_eq]
  have volts := ok.fullScale vsense
  have steps := exactSteps_nonneg ok (amps := amps) (by exact_mod_cast nonneg) volts
  have near := quantize_error ok nonneg volts
  have step := dacStep_pos ok volts
  change (_ → _ ≤ dacStep s _) ∧ (_ → _ → _ ≤ dacStep s _ / 2) ∧ _
  generalize quantize s amps (fullScale s.params vsense) = k at near ⊢
  refine ⟨fun quiet => ?_, fun quiet low => ?_, fun warned => ?_⟩
  · rw [csInverse_error ok]
    exact mul_le_of_le_one_left step.le (abs_clamp_sub_le_one steps near quiet)
  · rw [csInverse_error ok, clamp_of_quiet low quiet]
    linarith [mul_le_mul_of_nonneg_right near step.le]
  · have top : min 31 (max 0 k) = 31 := by omega
    have large : (32 : ℝ) ≤ k := by exact_mod_cast warned
    obtain ⟨-, above⟩ := abs_le.1 near
    refine ⟨top, sub_neg.1 ?_⟩
    rw [csInverse_sub ok, top]
    refine mul_neg_of_neg_of_pos ?_ step
    push_cast
    linarith

/-- The largest high-sensitivity current is below the smallest low-sensitivity one (spec/43_current_quantizer.md R244). -/
theorem csInverse_29_le_16 {s : State} (rsense : 0 < s.rsense) (default : DefaultVoltages s.params) :
    csInverse s 29 true ≤ csInverse s 16 false := by
  have sense := (QuantizerOk.of_defaultVoltages rsense default).sense
  obtain ⟨hi, lo, -⟩ := default
  rw [csInverse, csInverse, fullScale_true, fullScale_false, hi, lo]
  exact div_le_div_of_nonneg_right (by norm_num) (mul_pos (by norm_num) sense).le

/-- Settles O38: the quantizer is monotone in one range, and every low-sensitivity current is above the others. -/
theorem largerRequestNeverGivesLessCurrent : Obligations.LargerRequestNeverGivesLessCurrent := by
  intro s low high nonneg le rsense default
  have ok := QuantizerOk.of_defaultVoltages rsense default
  have lowRange := (forwardRangesOfTheScale s low nonneg rsense default).1
  have highRange := (forwardRangesOfTheScale s high (nonneg.trans le) rsense default).2
  obtain ⟨vsenseLow, selectLow, forwardLow⟩ := csForward_cases s low
  obtain ⟨vsenseHigh, selectHigh, forwardHigh⟩ := csForward_cases s high
  rw [forwardLow] at lowRange ⊢
  rw [forwardHigh] at highRange ⊢
  have select : vsenseHigh = true → vsenseLow = true := by
    rw [selectLow, selectHigh]
    exact (quantize_mono ok nonneg le ok.vfsHi).trans_lt
  cases vsenseHigh with
  | true =>
    obtain rfl := select rfl
    exact csInverse_mono ok (clampScale_scale_mono (quantize_mono ok nonneg le ok.vfsLo) true) true
  | false =>
    cases vsenseLow with
    | false => exact csInverse_mono ok (clampScale_scale_mono (quantize_mono ok nonneg le ok.vfsHi) false) false
    | true =>
      obtain ⟨-, low29, -⟩ := lowRange rfl
      obtain ⟨high16, -⟩ := highRange rfl
      calc csInverse s _ true
        _ ≤ csInverse s 29 true := csInverse_mono ok low29 true
        _ ≤ csInverse s 16 false := csInverse_29_le_16 rsense default
        _ ≤ csInverse s _ false := csInverse_mono ok high16 false

end Sys2Proof.Machine
end

section
/-! SUPPORT. The hold scale, SET_RMS and GET_RMS as the reads and writes of their fields in order (O34, O35). -/

namespace Sys2Proof.Machine

/-! ### The hold scale -/

theorem roundHalfAway_of_neg {x : Rat} (neg : x < 0) : roundHalfAway x = -roundHalfAway (-x) := by
  rw [roundHalfAway_of_nonneg (neg_nonneg.2 neg.le)]
  exact if_neg neg.not_ge

/-- Rounding is off by at most a half, and away from zero where it is off by exactly a half (spec/00_scope.md R13). -/
theorem roundHalfAway_away (x : Rat) :
    |(roundHalfAway x : Rat) - x| ≤ 1 / 2 ∧ (|(roundHalfAway x : Rat) - x| = 1 / 2 → |x| < |(roundHalfAway x : Rat)|) := by
  have of_nonneg (y : Rat) (nonneg : 0 ≤ y) : |(roundHalfAway y : Rat) - y| ≤ 1 / 2 ∧
      (|(roundHalfAway y : Rat) - y| = 1 / 2 → |y| < |(roundHalfAway y : Rat)|) := by
    obtain ⟨near, tie⟩ := roundHalfAway_error nonneg
    exact ⟨near, fun half => (abs_of_nonneg nonneg).trans_lt ((tie half).trans_le (le_abs_self _))⟩
  rcases le_or_gt 0 x with nonneg | neg
  · exact of_nonneg x nonneg
  · have mirrored := of_nonneg (-x) (neg_nonneg.2 neg.le)
    have error : |(roundHalfAway x : Rat) - x| = |(roundHalfAway (-x) : Rat) - -x| := by
      rw [roundHalfAway_of_neg neg, ← abs_neg]
      push_cast
      ring_nf
    rw [error]
    simpa [roundHalfAway_of_neg neg] using mirrored

/-- A fraction of a scale is rounded to a number between 0 and the scale (spec/43_current_quantizer.md R232). -/
theorem roundHalfAway_mul_fraction {n : Int} {f : Rat} (scale : 0 ≤ n) (low : 0 ≤ f) (high : f ≤ 1) :
    0 ≤ roundHalfAway (n * f) ∧ roundHalfAway (n * f) ≤ n := by
  have real : (0 : Rat) ≤ n := by exact_mod_cast scale
  rw [roundHalfAway_of_nonneg (mul_nonneg real low)]
  refine ⟨by positivity, Int.lt_add_one_iff.1 (Int.floor_lt.2 ?_)⟩
  push_cast
  nlinarith

theorem csForward_scale_nonneg (s : State) (amps : Rat) : 0 ≤ (csForward s amps).scale := by
  obtain ⟨vsense, -, forward⟩ := csForward_cases s amps
  rw [forward, clampScale_scale]
  omega

/-! ### SET_RMS and GET_RMS -/

theorem field_of_grows {s t : State} (grows : Grows s t) (n : FieldName) : field t n = field s n := by
  rw [field, grows.params, field]

/-- The write of a named field after operations that keep the parameters. -/
theorem writeNamed_gives_of_grows {s t : State} (grows : Grows s t) (n : FieldName) (v : Int) :
    FieldWriteGives t (field s n) v (writeNamed t n v).ok (writeNamed t n v).state := by
  rw [← field_of_grows grows]
  exact writeField_gives t (field t n) v

theorem exec_setRms_of_nonneg {amps : Rat} (nonneg : 0 ≤ amps) (s : State) :
    exec (.setRms amps) s =
      let r := csForward s amps
      let g1 := writeNamed { s with rmsTarget := some amps } .vsense (if r.vsense then 1 else 0)
      let g2 := writeNamed g1.state .irun r.scale
      let g3 := writeNamed g2.state .ihold (holdScale s r.scale)
      .next (complete g3.state (.setRms amps) .none (some (g1.ok && g2.ok && g3.ok)) (warnScale r.warn)) :=
  congrArg Host.Outcome.next (if_neg nonneg.not_gt)

/-- Settles O34: the hold scale by the rounding, the writes one after another. -/
theorem setRmsWritesThreeFieldsInOrder : Obligations.SetRmsWritesThreeFieldsInOrder := by
  intro s amps nonneg
  obtain ⟨near, tie⟩ := roundHalfAway_away ((csForward s amps).scale * s.holdFraction)
  have stored : Grows s { s with rmsTarget := some amps } := .of_view rfl
  have wroteVsense := stored.writeNamed .vsense (if (csForward s amps).vsense then 1 else 0)
  have wroteIrun := wroteVsense.writeNamed .irun (csForward s amps).scale
  exact ⟨_, _, _, _, _, _, holdScale s (csForward s amps).scale, _, rfl, near, tie,
    roundHalfAway_mul_fraction (csForward_scale_nonneg s amps), writeNamed_gives_of_grows stored _ _,
    writeNamed_gives_of_grows wroteVsense _ _, writeNamed_gives_of_grows wroteIrun _ _, exec_setRms_of_nonneg nonneg s⟩

/-- Settles O35: the second read is of the same table, which the first one keeps. -/
theorem getRmsReadsTheChip : Obligations.GetRmsReadsTheChip := by
  intro s
  have irun : field (readNamed s .vsense).state .irun = field s .irun := field_of_grows (grows_memRead s _) _
  refine ⟨_, _, _, _, _, _, memRead_gives s _, memRead_gives _ _, ?_⟩
  rw [← irun, ← bne_zero]
  rfl

end Sys2Proof.Machine
end

section
/-! SUPPORT. Whether an instruction is refused, and what an admitted one sends, leaves to a suspended POLL and logs, said once
for every instruction (`exec_judged`). The statements on refusals, bounds and the step (O50, O58, O54) are read off it. -/

namespace Sys2Proof.Machine

/-! ### Operand types as ranges -/

theorem fitsUnsigned_iff (n : Nat) (v : Int) : fitsUnsigned n v = true ↔ 0 ≤ v ∧ v < 2 ^ n := decide_eq_true_iff

theorem isU7_iff (v : Int) : isU7 v = true ↔ 0 ≤ v ∧ v < 128 := fitsUnsigned_iff 7 v

theorem isU32_iff (v : Int) : isU32 v = true ↔ 0 ≤ v ∧ v < 4294967296 := fitsUnsigned_iff 32 v

theorem isU8_iff (v : Int) : isU8 v = true ↔ 0 ≤ v ∧ v ≤ 255 :=
  (fitsUnsigned_iff 8 v).trans (and_congr_right fun _ => Int.lt_add_one_iff (b := 255))

theorem isU5_iff (v : Int) : isU5 v = true ↔ 0 ≤ v ∧ v ≤ 31 :=
  (fitsUnsigned_iff 5 v).trans (and_congr_right fun _ => Int.lt_add_one_iff (b := 31))

theorem isU2_iff (v : Int) : isU2 v = true ↔ 0 ≤ v ∧ v ≤ 3 :=
  (fitsUnsigned_iff 2 v).trans (and_congr_right fun _ => Int.lt_add_one_iff (b := 3))

theorem handlerOfId_isSome_iff (h : Int) : (handlerOfId h).isSome = true ↔ 0 ≤ h ∧ h ≤ 8 := by
  unfold handlerOfId
  split
  next nonneg =>
    have length : handlerOrder.length = 9 := rfl
    simp only [isSome_getElem?]
    omega
  next neg => simp [neg]

/-! ### What an admitted operation logs, sends and leaves -/

/-- The entry tells of no refusal. -/
def NoRefusal (e : LogEntry) : Prop := ∀ r, e.result ≠ .refused r

/-- From `s` to `t` an operation has logged no refusal, and has made or left to a suspended POLL at most `n` transactions
(spec/60_exceptions.md R257, R277; log 16). -/
structure Runs (n : Nat) (s t : State) : Prop where
  logged : ∃ new, t.results = s.results ++ new ∧ ∀ e ∈ new, NoRefusal e
  sent : s.txLog.length ≤ t.txLog.length
  left : readsLeft s ≤ readsLeft t
  total : t.txLog.length + readsLeft t ≤ s.txLog.length + readsLeft s + n

theorem readsLeft_of_stack {s t : State} (same : t.stack = s.stack) : readsLeft t = readsLeft s := by
  rw [readsLeft, same, readsLeft]

theorem readsLeft_of_cons {s : State} {a : Activation} {below : List Activation} (stack : s.stack = a :: below) :
    readsLeft s = totalReads a.rest + readsLeft { s with stack := below } := by
  simp [readsLeft, stack]

/-- An operation that sends frames, and neither logs nor suspends anything. -/
theorem Runs.of_frames {s t : State} {n : Nat} (frames : List (List Byte)) (sent : t.txLog = s.txLog ++ frames)
    (few : frames.length ≤ n) (results : t.results = s.results) (stack : t.stack = s.stack) : Runs n s t where
  logged := ⟨[], by simp [results], by simp⟩
  sent := by simp [sent]
  left := (readsLeft_of_stack stack).ge
  total := by
    rw [sent, List.length_append, readsLeft_of_stack stack]
    omega

/-- What `Runs` looks at. -/
def runsView (s : State) : List (List Byte) × List LogEntry × List Activation := (s.txLog, s.results, s.stack)

theorem Runs.of_view {s t : State} (same : runsView t = runsView s) : Runs 0 s t := by
  simp only [runsView, Prod.mk.injEq] at same
  obtain ⟨txLog, results, stack⟩ := same
  exact .of_frames [] (by simp [txLog]) le_rfl results stack

theorem Runs.refl (s : State) : Runs 0 s s := .of_view rfl

theorem Runs.mono {s t : State} {m n : Nat} (h : Runs m s t) (le : m ≤ n) : Runs n s t :=
  ⟨h.logged, h.sent, h.left, h.total.trans (Nat.add_le_add_left le _)⟩

theorem Runs.trans {s t u : State} {m n : Nat} (h : Runs m s t) (k : Runs n t u) : Runs (m + n) s u := by
  obtain ⟨⟨xs, logged, each⟩, sent, left, total⟩ := h
  obtain ⟨⟨ys, logged', each'⟩, sent', left', total'⟩ := k
  refine ⟨⟨xs ++ ys, by rw [logged', logged, List.append_assoc], fun e mem => ?_⟩, sent.trans sent', left.trans left', ?_⟩
  · exact (List.mem_append.1 mem).elim (each e) (each' e)
  · omega

/-! ### The shared operations -/

theorem AfterReads.runs {s t : State} {n : Nat} (h : AfterReads s t n) : Runs n s t := by
  obtain ⟨same, frames, sent, few, -⟩ := h
  exact .of_frames frames sent few same.results same.stack

theorem runs_memRead (s : State) (reg : RegAddr) : Runs 1 s (memRead s reg).state := (memRead_reads s reg).runs

theorem runs_transact (s : State) (tx : List Byte) : Runs 1 s (transact s tx) := .of_frames [tx] rfl le_rfl rfl rfl

theorem runs_writeTransaction (s : State) (tx : List Byte) (reg : RegAddr) (v : Word) :
    Runs 1 s (writeTransaction s tx reg v) := .of_frames [tx] (by simp) le_rfl (by simp) (by simp)

theorem runs_memWrite (s : State) (reg : RegAddr) (v : Word) : Runs 1 s (memWrite s reg v) :=
  runs_writeTransaction s _ reg v

/-- A field is written by a write, or by a read and a write (spec/41_field_codec.md R146). -/
theorem runs_writeField (s : State) (f : FieldSpec) (v : Int) : Runs 2 s (writeField s f v).state := by
  unfold writeField
  split
  · exact (runs_memWrite s _ _).mono one_le_two
  · exact (runs_memRead s _).trans (runs_memWrite _ _ _)

theorem Runs.writeNamed {s t : State} {m : Nat} (h : Runs m s t) (n : FieldName) (v : Int) :
    Runs (m + 2) s (Machine.writeNamed t n v).state :=
  h.trans (runs_writeField t _ v)

/-- An operation that completes logs what it returns. -/
theorem Runs.complete {s t : State} {n : Nat} (h : Runs n s t) (op : Instr) (value : Value) (ok : Option Bool)
    (warning : Option Warning) : Runs n s (Machine.complete t op value ok warning) := by
  refine h.trans (n := 0) ⟨⟨_, rfl, ?_⟩, le_rfl, le_rfl, le_rfl⟩
  simp [NoRefusal]

theorem Runs.ends {s t : State} {m n : Nat} (h : Runs m s t) (le : m ≤ n) {op : Instr} {value : Value}
    {ok : Option Bool} {warning : Option Warning} : Runs n s (Machine.complete t op value ok warning) :=
  (h.complete op value ok warning).mono le

/-! ### The operations that emit -/

theorem runs_finishEmitter (ctx : EmitterCtx) (s : State) : Runs 0 s (finishEmitter ctx s) :=
  (Runs.refl s).complete _ _ _ _

/-- A handler step makes the transactions of what follows it, or is suspended and leaves the reads of the handlers that
follow. -/
theorem runs_handlerStep {n : Nat} (ctx : EmitterCtx) (h : Handler) (v : Bool) (pending : List Event)
    {rest : List Handler} {k : State → State} (s : State) (few : totalReads rest ≤ n) (after : ∀ u, Runs n u (k u)) :
    Runs n s (handlerStep ctx h v pending rest k s) := by
  rcases handlerStep_cases ctx h v pending rest k s with ⟨-, ends⟩ | ⟨e, left, -, -, waits⟩
  · rw [ends]
    have step : Runs 0 s (setPrev (afterEvents s pending) h v) := .of_view rfl
    simpa using step.trans (after _)
  · rw [waits]
    generalize suspended :
      suspend (emit s e) { ctx := ctx, handler := h, input := v, pending := left, rest := rest } = t
    have txLog : t.txLog = s.txLog := by simp [← suspended]
    have results : t.results = s.results := by simp [← suspended]
    have reads : readsLeft t = totalReads rest + readsLeft s := by simp [← suspended, readsLeft]
    exact ⟨⟨[], by simp [results], by simp⟩, by rw [txLog], by omega, by rw [txLog]; omega⟩

/-- The handlers left to a POLL make, or leave, at most their reads. -/
theorem runs_runHandlers (hs : List Handler) (ctx : EmitterCtx) (s : State) :
    Runs (totalReads hs) s (runHandlers hs ctx s) := by
  induction hs generalizing ctx s with
  | nil => exact runs_finishEmitter ctx s
  | cons h rest ih =>
    have input := (acquire_reads h ctx.snapshot s).runs
    exact input.trans (runs_handlerStep _ h _ _ _ le_rfl (ih _))

theorem runs_resumeActivation (a : Activation) (s : State) : Runs (totalReads a.rest) s (resumeActivation a s) :=
  runs_handlerStep a.ctx a.handler a.input a.pending s le_rfl (runs_runHandlers a.rest a.ctx)

/-! ### Every instruction -/

/-- The most transactions of an instruction (spec/60_exceptions.md R277). -/
def transactionBound : Instr → Nat
  | .poll => 9
  | .setRms _ => 6
  | _ => 2

/-- The outcome `o` of `i` is the refusal with the reason, or where there is none a run within `n` transactions. -/
def Judged (n : Nat) (i : Instr) (s : State) (o : Host.Outcome State Fault Refusal) : Option RefuseReason → Prop
  | some r => o = .next (refuse s (some i) r)
  | none => ∃ t, o = .next t ∧ Runs n s t

section
variable {n : Nat} {i : Instr} {s t : State}

theorem judged_refuse (r : RefuseReason) : Judged n i s (.next (refuse s (some i) r)) (some r) := rfl

theorem Runs.judged (runs : Runs n s t) : Judged n i s (.next t) none := ⟨t, rfl, runs⟩

/-- An instruction that is refused unless `c` holds, which the rules write `d`. -/
theorem Judged.guarded {c d : Prop} [Decidable c] [Decidable d] {r : RefuseReason} {inner : Option RefuseReason}
    (judged : Judged n i s (.next t) inner) (rule : c ↔ d) :
    Judged n i s (.next (if c then t else refuse s (some i) r)) (if d then inner else some r) := by
  by_cases admitted : c
  · rwa [if_pos admitted, if_pos (rule.1 admitted)]
  · rw [if_neg admitted, if_neg (mt rule.2 admitted)]
    exact judged_refuse ..

theorem Runs.judged_if {c d : Prop} [Decidable c] [Decidable d] {r : RefuseReason} (runs : Runs n s t) (rule : c ↔ d) :
    Judged n i s (.next (if c then t else refuse s (some i) r)) (if d then none else some r) :=
  runs.judged.guarded rule

/-- An instruction that is refused where `c` holds. -/
theorem Runs.judged_unless {c : Prop} [Decidable c] {r : RefuseReason} (runs : Runs n s t) :
    Judged n i s (.next (if c then refuse s (some i) r else t)) (if c then some r else none) := by
  split
  · exact judged_refuse ..
  · exact runs.judged

end

theorem runs_setNamed (op : Instr) (n : FieldName) (v : Int) (warning : Option Warning) (s : State) :
    Runs 2 s (setNamed op n v warning s) := (runs_writeField s _ v).complete _ _ _ _

theorem runs_getNamed (op : Instr) (n : FieldName) (f : Int → Value) (s : State) : Runs 2 s (getNamed op n f s) :=
  (runs_memRead s _).ends one_le_two

theorem runs_getRegister (op : Instr) (reg : RegAddr) (s : State) : Runs 2 s (getRegister op reg s) :=
  (runs_memRead s reg).ends one_le_two

theorem runs_local {s t : State} (same : runsView t = runsView s) {op : Instr} {value : Value} {ok : Option Bool}
    {warning : Option Warning} : Runs 2 s (complete t op value ok warning) := (Runs.of_view same).ends zero_le_two

theorem execSetMstep_judged (n : Int) (s : State) : Judged 2 (.setMstep n) s (execSetMstep n s) none := by
  refine Runs.judged ?_
  split
  · exact runs_setNamed _ _ _ _ s
  · exact runs_local rfl

theorem execSetRms_judged (amps : Rat) (s : State) :
    Judged 6 (.setRms amps) s (execSetRms amps s) (refusalOf (.setRms amps) s) := by
  have target : Runs 0 s { s with rmsTarget := some amps } := .of_view rfl
  exact ((((target.writeNamed _ _).writeNamed _ _).writeNamed _ _).complete _ _ _ _).judged_unless

/-- The operand is judged before the phase (spec/60_exceptions.md R262). -/
theorem execSetNodeaddr_judged (a : Int) (s : State) :
    Judged 2 (.setNodeaddr a) s (execSetNodeaddr a s) (refusalOf (.setNodeaddr a) s) := by
  have order : refusalOf (.setNodeaddr a) s =
      if 0 ≤ a ∧ a ≤ 3 then if s.phase = .running then some .nodeAddrFixed else none else some .badOperand := ite_not ..
  rw [order]
  refine Judged.guarded ?_ (isU2_iff a)
  cases s.phase with
  | config => exact (runs_local (by rfl)).judged
  | running => exact judged_refuse ..

theorem execCheck_judged (h : Int) (v : Bool) (s : State) :
    Judged 2 (.check h v) s (execCheck h v s) (refusalOf (.check h v) s) := by
  have rule := handlerOfId_isSome_iff h
  change Judged 2 _ s _ (if 0 ≤ h ∧ h ≤ 8 then none else some .badOperand)
  unfold execCheck
  split
  next hd isHandler =>
    rw [if_pos (rule.1 (by rw [isHandler]; rfl))]
    have ends (ctx : EmitterCtx) (u : State) : Runs 2 u (finishEmitter ctx u) :=
      (runs_finishEmitter ctx u).mono zero_le_two
    exact (runs_handlerStep _ hd v _ s zero_le_two (ends _)).judged
  next noHandler =>
    rw [if_neg (mt rule.2 (by rw [noHandler]; exact Bool.false_ne_true))]
    exact judged_refuse ..

/-- Every instruction is refused with the reason of the rules, and runs within its bound where they give none. -/
theorem exec_judged (i : Instr) (s : State) : Judged (transactionBound i) i s (exec i s) (refusalOf i s) := by
  cases i with
  | wreg addr value =>
    exact ((runs_memWrite s _ _).ends one_le_two).judged_if (by
      rw [Bool.and_eq_true, isU7_iff, isU32_iff, and_assoc])
  | rreg addr => exact ((runs_memRead s _).ends one_le_two).judged_if (isU7_iff addr)
  | rfld => exact ((runs_memRead s _).ends one_le_two).judged_if .rfl
  | wfld => exact ((runs_writeField s _ _).ends le_rfl).judged_if .rfl
  | setMstep n => exact execSetMstep_judged n s
  | getMstep =>
    have draw (u : State) : Runs 0 u { u with draws := u.draws + 1 } := .of_view rfl
    exact (((runs_memRead s _).trans (draw _)).ends one_le_two).judged
  | setIholddelay | setIholddelayMs | setTpowerdown | setTpowerdownMs | setTcoolthrs =>
    exact (runs_setNamed _ _ _ _ s).judged_unless
  | getIholddelay | getIholddelayMs | getTpowerdown | getTpowerdownMs | getTcoolthrs | getVersion =>
    exact (runs_getNamed _ _ _ s).judged
  | setSgthrs v => exact ((runs_memWrite s _ _).ends one_le_two).judged_if (isU8_iff v)
  | getSgthrs | getSgresult => exact (runs_getRegister _ _ s).judged
  | csFwd => exact (runs_local rfl).judged_unless
  | csInv scale => exact (runs_local rfl).judged_if (isU5_iff scale)
  | setRms amps => exact execSetRms_judged amps s
  | getRms => exact (((runs_memRead s _).trans (runs_memRead _ _)).ends le_rfl).judged
  | setHoldfrac | setRsense | setFosc | setup => exact (runs_local (by rfl)).judged_unless
  | getHoldfrac | getRsense | getFosc | getNodeaddr => exact (runs_local rfl).judged
  | setNodeaddr a => exact execSetNodeaddr_judged a s
  | check h v => exact execCheck_judged h v s
  | poll => exact (runs_runHandlers handlerOrder _ s).judged_unless
  | edge src => exact ((Runs.of_view (by cases src <;> rfl)).mono zero_le_two).judged
  | w8 => exact ((runs_writeTransaction s _ _ _).ends one_le_two).judged_if (by simp)
  | r4 => exact ((runs_transact s _).ends one_le_two).judged_if (by simp)
  | p8 => exact ((Runs.of_view (by rfl)).mono zero_le_two).judged

/-- Settles O50: the outcome is the one `exec_judged` names for the reason of the rules. -/
theorem refusedExactlyWhenTheRulesSay : Obligations.RefusedExactlyWhenTheRulesSay := by
  intro i s
  have judged := exec_judged i s
  refine ⟨fun r refused => ?_, fun admitted t next => ?_⟩
  · rw [refused] at judged
    exact judged
  · rw [admitted] at judged
    obtain ⟨u, leaves, runs⟩ := judged
    cases leaves.symm.trans next
    exact runs.logged

/-! ### Transactions -/

/-- A refusal sends nothing and leaves nothing to do (spec/60_exceptions.md R260). -/
theorem Judged.bounded {n : Nat} {i : Instr} {s t : State} {reason : Option RefuseReason}
    (judged : Judged n i s (.next t) reason) :
    s.txLog.length ≤ t.txLog.length ∧ readsLeft s ≤ readsLeft t ∧
      t.txLog.length + readsLeft t ≤ s.txLog.length + readsLeft s + n := by
  cases reason with
  | some r =>
    cases judged
    exact ⟨le_rfl, le_rfl, Nat.le_add_right _ n⟩
  | none =>
    obtain ⟨u, leaves, runs⟩ := judged
    cases leaves
    exact ⟨runs.sent, runs.left, runs.total⟩

/-- What goes on without an input makes its transactions out of the reads left to it. -/
theorem proceed_bounded (s : State) :
    (proceed s).txLog.length + readsLeft (proceed s) ≤ s.txLog.length + readsLeft s := by
  rcases proceed_cases s with idle | ⟨a, below, nest, stack, resumed⟩
  · rw [idle]
  · have runs := runs_resumeActivation a { s with stack := below, nest := nest }
    calc (proceed s).txLog.length + readsLeft (proceed s)
        ≤ s.txLog.length + readsLeft { s with stack := below } + totalReads a.rest := by
          rw [resumed]
          exact runs.total
      _ = s.txLog.length + readsLeft s := by
          rw [readsLeft_of_cons stack]
          omega

/-- Settles O58: a refusal, or a run within the bound; and what goes on by the reads left. -/
theorem transactionsPerOperationAreBounded : Obligations.TransactionsPerOperationAreBounded := by
  refine ⟨fun i s t next => ?_, fun s t empty next => ?_⟩
  · have judged := exec_judged i s
    rw [next] at judged
    exact judged.bounded
  · cases (step_of_fetch_none empty).symm.trans next
    exact proceed_bounded s

/-! ### The step -/

theorem exists_step (s : State) : ∃ t, step s = .next t := by
  rcases step_cases s with ⟨inp, s', i, -, runs⟩ | ⟨inp, s', reason, -, refused⟩ | ⟨-, goesOn⟩
  · obtain ⟨t, leaves, -⟩ := exec_effect i s'
    exact ⟨t, runs.trans leaves⟩
  · exact ⟨_, refused⟩
  · exact ⟨_, goesOn⟩

/-- A step that finds no input and nothing to go on with keeps the state. -/
theorem step_stays {s : State} (empty : fetch s = none) (stays : proceed s = s) : step s = .next s := by
  rw [step_of_fetch_none empty, stays]

/-- Settles O54: each way a step goes has a next state; an idle and a blocked block by the equations of `fetch` and
`proceed`. -/
theorem everyStepAnswersANextState : Obligations.EveryStepAnswersANextState := by
  refine ⟨exists_step, fun s idle port => ?_, fun s rest suspended nest => ?_⟩
  · exact step_stays (by simp [fetch, idle, port]) (by simp [proceed, idle])
  · obtain ⟨a, below, stack⟩ := List.exists_cons_of_ne_nil suspended
    exact step_stays (by simp [fetch, stack, nest]) (by simp [proceed, stack, nest])

end Sys2Proof.Machine
end

section
/-! SUPPORT. SETUP and construction: what re-arms the block, and the fields and the invariant that it is built with (O51,
O52, O59). -/

namespace Sys2Proof.Machine

/-! ### SETUP -/

theorem shadowAfterSetup_eq (s : State) :
    shadowAfterSetup s = if s.params.readback = .shadow then s.params.shadowReset else s.shadow := by
  unfold shadowAfterSetup
  cases s.params.readback <;> rfl

theorem inPoll_eq_false_of_no_poll {s : State} (alone : ¬ PollInProgress s) : inPoll s = false :=
  (inPoll_eq_false_iff s).2 fun a mem poll => alone ⟨a, mem, poll⟩

/-- Settles O51: outside a POLL nothing refuses SETUP, and the shadow it leaves is read off `READBACK`. -/
theorem setupRearmsAndKeepsConfiguration : Obligations.SetupRearmsAndKeepsConfiguration := by
  intro s alone
  have admitted : ¬ inPoll s = true := by simp [inPoll_eq_false_of_no_poll alone]
  rw [← shadowAfterSetup_eq]
  exact congrArg Host.Outcome.next (if_neg admitted)

/-! ### Construction -/

/-- Settles O52: the fields are those of `State.construct`, and every cell of the handler file it starts with is false. -/
theorem constructionGivesTheSpecifiedState : Obligations.ConstructionGivesTheSpecifiedState := fun c =>
  ⟨State.construct c, rfl, rfl, rfl, rfl, rfl, rfl, rfl, rfl, rfl, rfl, HandlerFile.get_clear, rfl, rfl, fun _ => rfl, rfl,
    rfl, rfl⟩

theorem ConstructionOk.config {c : Construction} (ok : ConstructionOk c) : ConfigOk (State.construct c) where
  rsense := ok.rsense
  fosc := ok.fosc
  holdLow := ok.holdLow
  holdHigh := ok.holdHigh
  target := nofun

/-- As it is built, a block has sent nothing and has nothing suspended, so only its configuration is in question. -/
theorem ConstructionOk.inv {c : Construction} (ok : ConstructionOk c) : Inv (State.construct c) where
  config := ok.config
  sent := nofun
  activations := nofun
  onePoll := Nat.zero_le 1

/-! ### The reset parameters -/

theorem fieldSpecOk_unsignedField (reg : RegAddr) {offset width : Int} (low : 0 ≤ offset) (nonempty : 1 ≤ width)
    (inside : offset + width ≤ 32) : fieldSpecOk (unsignedField reg offset width) = true := by
  have addr : reg.toNat < 128 := reg.isLt
  refine decide_eq_true ?_
  simp only [unsignedField]
  omega

theorem tableOk_defaultFieldTable : tableOk defaultFieldTable := by
  intro n
  cases n <;> exact fieldSpecOk_unsignedField _ (by decide) (by decide) (by decide)

theorem paramsOk_defaultParams : ParamsOk defaultParams where
  table := tableOk_defaultFieldTable
  vfsHi := by norm_num [defaultParams]
  vfsLo := by norm_num [defaultParams]
  rInt := by norm_num [defaultParams]
  tclkDiv := by norm_num [defaultParams]

theorem constructionOk_defaultConstruction : ConstructionOk defaultConstruction where
  rsense := by norm_num [defaultConstruction]
  fosc := by norm_num [defaultConstruction]
  holdLow := by norm_num [defaultConstruction]
  holdHigh := by norm_num [defaultConstruction]
  params := paramsOk_defaultParams

/-- Settles O59: construction in the domains gives the invariant, and the reset parameters are in their domains. -/
theorem invariantHoldsAtConstruction : Obligations.InvariantHoldsAtConstruction :=
  ⟨fun _ => ConstructionOk.inv, constructionOk_defaultConstruction.inv⟩

end Sys2Proof.Machine
end
